-- ==== Sys2Proof/Word.lean ====
section
/-! DEFINITION. The unsigned words of the packets and of device memory (00_scope R8). -/

namespace Sys2Proof

/-- `u8` (00_scope R8). -/
abbrev Byte := BitVec 8

/-- `u16` (00_scope R8). -/
abbrev Half := BitVec 16

/-- `u32` (00_scope R8). -/
abbrev Word := BitVec 32

end Sys2Proof
end

