-- ==== Sys2Proof/Config.lean ====
section
/-! DEFINITION. BoardIDs and the parameters of 00_scope R7. The parameters are plain data that the state
carries unchanged (10_state R33, log 1), but for the two checksum functions, which are opaque (log 4). -/

namespace Sys2Proof

/-- A BoardID: 96 bits as three u32 words (00_scope R10, 40_codec R100). Two are equal exactly when all
three pairs of words are equal. -/
structure BoardId where
  high : Word
  medium : Word
  low : Word
  deriving DecidableEq, Repr

/-- `SENTINEL`, the all-zero BoardID (00_scope R10, 30_encoding R84). -/
def BoardId.sentinel : BoardId := ⟨0, 0, 0⟩

/-- `OPCODE_MAP`: the operation byte of each named operation (30_encoding R76). -/
structure OpcodeMap where
  ack : Byte
  ping : Byte
  read : Byte
  write : Byte
  exec : Byte
  deriving DecidableEq, Repr

/-- `KIND_MAP`: the kind byte of each named Body kind (30_encoding R77). -/
structure KindMap where
  memory : Byte
  sensors : Byte
  code : Byte
  deriving DecidableEq, Repr

/-- The decided default of `OPCODE_MAP` (30_encoding R76, decision D1). -/
def OpcodeMap.standard : OpcodeMap := ⟨0x00, 0x01, 0x02, 0x03, 0x04⟩

/-- The decided default of `KIND_MAP` (30_encoding R77, decision D2). -/
def KindMap.standard : KindMap := ⟨0x00, 0x01, 0x02⟩

/-- `OPCODE_MAP` is injective (the constraint column of 00_scope R7). -/
abbrev OpcodeMap.Injective (m : OpcodeMap) : Prop :=
  [m.ack, m.ping, m.read, m.write, m.exec].Nodup

/-- `KIND_MAP` is injective (the constraint column of 00_scope R7). -/
abbrev KindMap.Injective (m : KindMap) : Prop :=
  [m.memory, m.sensors, m.code].Nodup

/-- `CHECKSUM_MODE` (40_codec R109). -/
inductive ChecksumMode where
  | none
  | verify
  deriving DecidableEq, Repr

/-- The parameters of 00_scope R7 that are plain data. `memInit` lists the bytes of `MEM_INIT` that are not
0x00, addresses rising (log 9). -/
structure Config where
  ownId : BoardId
  opcodeMap : OpcodeMap
  kindMap : KindMap
  checksumMode : ChecksumMode
  memBytes : Nat
  memInit : List Host.Cell
  settleTicks : Nat
  waitTimeout : Option Nat
  deriving DecidableEq, Repr

/-- `CSUM_H`, a total function of the 14 covered Header bytes. OPEN: nothing constrains it (40_codec R108,
decision D3, log 4). -/
opaque Config.csumH : List Byte → Byte

/-- `CSUM_B`, a total function of the 527 covered Body bytes. OPEN: nothing constrains it (40_codec R108,
decision D3, log 4). -/
opaque Config.csumB : List Byte → Byte

/-- The instance that `State.reset` starts: the decided defaults of 00_scope R7, and for the OPEN parameters
the values of 95_test_vectors section 0. DESIGN CHOICE (log 2); unsafe for a claim that rests on them. -/
def Config.sample : Config where
  ownId := ⟨0x1, 0x2, 0x3⟩
  opcodeMap := OpcodeMap.standard
  kindMap := KindMap.standard
  checksumMode := .none
  memBytes := 0x10000
  memInit := []
  settleTicks := 2
  waitTimeout := .none

end Sys2Proof
end

