-- ==== Sys2Proof/Syntax.lean ====
section
/-! DEFINITION. Links, packet formats, packet records, and the instructions: one constructor per row of the
opcode table. An instruction is a received packet (00_scope R13). -/

namespace Sys2Proof

/-- The two links of an endpoint (00_scope R11). -/
inductive Link where
  /-- The link toward the host or the previous device. -/
  | up
  /-- The link toward the next device. -/
  | dn
  deriving DecidableEq, Repr

/-- The two packet formats (30_encoding R70). -/
inductive Format where
  | header
  | body
  deriving DecidableEq, Repr

/-- A Header record, every field at its raw width (40_codec R100). -/
structure HeaderRec where
  op : Byte
  hop : Byte
  csum : Byte
  target : BoardId
  deriving DecidableEq, Repr

/-- A Body record, every field at its raw width (40_codec R100). `payload` has 512 bytes; WellFormed says so. -/
structure BodyRec where
  kind : Byte
  csum : Byte
  target : BoardId
  offset : Half
  payload : List Byte
  deriving DecidableEq, Repr

/-- The result of `classify_op` (40_codec R114). -/
inductive OpClass where
  | ack
  | ping
  | read
  | write
  | exec
  | unknown
  deriving DecidableEq, Repr

/-- The result of `classify_kind` (40_codec R115). -/
inductive KindClass where
  | memory
  | sensors
  | code
  | unknown
  deriving DecidableEq, Repr

/-- A received packet of a recognized operation or kind. `rx` is the link it completed on, which decides its
dispatch (41_header_ops R120) and is not a byte of the packet (log 6). The operation or kind byte is the
constructor's, through `OPCODE_MAP` or `KIND_MAP`. -/
inductive Instr where
  /-- ACK: R128 from the uplink, R171 and R176 from the downlink. -/
  | ack (rx : Link) (hop csum : Byte) (target : BoardId)
  /-- PING: R129, R130, R131 from the uplink, R172 and R177 from the downlink. -/
  | ping (rx : Link) (hop csum : Byte) (target : BoardId)
  /-- READ: R132 from the uplink, R172 and R177 from the downlink. -/
  | read (rx : Link) (hop csum : Byte) (target : BoardId)
  /-- WRITE: R133 from the uplink, R172 and R177 from the downlink. -/
  | write (rx : Link) (hop csum : Byte) (target : BoardId)
  /-- EXEC: R134 from the uplink, R172 and R177 from the downlink. -/
  | exec (rx : Link) (hop csum : Byte) (target : BoardId)
  /-- BODY.MEM: R154, R155 at the owner, R173, R174 at a relay. -/
  | bodyMem (rx : Link) (csum : Byte) (target : BoardId) (offset : Half) (payload : List Byte)
  /-- BODY.SENS: R156 at the owner, R173, R174 at a relay. -/
  | bodySens (rx : Link) (csum : Byte) (target : BoardId) (offset : Half) (payload : List Byte)
  /-- BODY.CODE: R157 at the owner, R173, R174 at a relay. -/
  | bodyCode (rx : Link) (csum : Byte) (target : BoardId) (offset : Half) (payload : List Byte)
  deriving DecidableEq, Repr

/-- The link the packet completed on. -/
def Instr.rx : Instr → Link
  | .ack rx _ _ _ => rx
  | .ping rx _ _ _ => rx
  | .read rx _ _ _ => rx
  | .write rx _ _ _ => rx
  | .exec rx _ _ _ => rx
  | .bodyMem rx _ _ _ _ => rx
  | .bodySens rx _ _ _ _ => rx
  | .bodyCode rx _ _ _ _ => rx

/-- The packet's format, the opcode table's "format" column. -/
def Instr.format : Instr → Format
  | .ack _ _ _ _ => .header
  | .ping _ _ _ _ => .header
  | .read _ _ _ _ => .header
  | .write _ _ _ _ => .header
  | .exec _ _ _ _ => .header
  | .bodyMem _ _ _ _ _ => .body
  | .bodySens _ _ _ _ _ => .body
  | .bodyCode _ _ _ _ _ => .body

end Sys2Proof
end

