-- ==== Sys2Proof/WellFormed.lean ====
section
/-! DEFINITION. The one check the types leave open: a Body's payload is exactly 512 bytes (30_encoding R81). -/

namespace Sys2Proof

/-- A Body record is a record of 40_codec R100: its payload has `PAYLOAD_SIZE` = 512 bytes (00_scope R6). -/
abbrev BodyRec.WellFormed (b : BodyRec) : Prop := b.payload.length = 512

/-- An instruction is well formed when every packet of it is one the format admits: a Header always is, a
Body when its payload has 512 bytes (30_encoding R81). -/
def Instr.wellFormed : Instr → Bool
  | .ack _ _ _ _ => true
  | .ping _ _ _ _ => true
  | .read _ _ _ _ => true
  | .write _ _ _ _ => true
  | .exec _ _ _ _ => true
  | .bodyMem _ _ _ _ payload => payload.length == 512
  | .bodySens _ _ _ _ payload => payload.length == 512
  | .bodyCode _ _ _ _ payload => payload.length == 512

/-- `Instr.wellFormed` as a proposition. -/
abbrev Instr.WellFormed (i : Instr) : Prop := i.wellFormed = true

end Sys2Proof
end

