-- ==== Sys2Proof/Decode.lean ====
section
/-! DEFINITION. The packet codec (40_codec R101 to R107, R114, R115): field assembly, the record encoders and
decoders, classification, and from these the decoder and encoder of instructions. Total on any bytes; a packet
that is no instruction is rejected by name. -/

namespace Sys2Proof

/-- `HEADER_SIZE` = 15 and `BODY_SIZE` = 528 (00_scope R6, 90_conflicts C1). -/
def Format.size : Format → Nat
  | .header => 15
  | .body => 528

/-- `p[i]`. Bytes past the end read as 0x00; no caller reads one on a packet of its format's length. -/
def byteAt (p : List Byte) (i : Nat) : Byte := p.getD i 0x00

/-- `LE32(v)` (30_encoding R73, 40_codec R101). -/
def le32 (v : Word) : List Byte :=
  [v.extractLsb' 0 8, v.extractLsb' 8 8, v.extractLsb' 16 8, v.extractLsb' 24 8]

/-- `U32(p, j)` (30_encoding R73, 40_codec R102). -/
def u32At (p : List Byte) (j : Nat) : Word :=
  (byteAt p j).setWidth 32 ||| (byteAt p (j + 1)).setWidth 32 <<< 8 |||
    (byteAt p (j + 2)).setWidth 32 <<< 16 ||| (byteAt p (j + 3)).setWidth 32 <<< 24

/-- The u16 field at bytes j and j+1 (30_encoding R74). -/
def u16At (p : List Byte) (j : Nat) : Half :=
  (byteAt p j).setWidth 16 ||| (byteAt p (j + 1)).setWidth 16 <<< 8

/-- The two bytes of a u16 field (30_encoding R74). -/
def le16 (v : Half) : List Byte := [v.extractLsb' 0 8, v.extractLsb' 8 8]

/-- The 12 bytes of a BoardID: high, medium, low, each little-endian (30_encoding R75). -/
def encodeId (b : BoardId) : List Byte := le32 b.high ++ le32 b.medium ++ le32 b.low

/-- The BoardID field that starts at byte j (30_encoding R75). -/
def idAt (p : List Byte) (j : Nat) : BoardId := ⟨u32At p j, u32At p (j + 4), u32At p (j + 8)⟩

/-- `encode_header` (40_codec R101). -/
def encodeHeader (h : HeaderRec) : List Byte := [h.op, h.hop, h.csum] ++ encodeId h.target

/-- `decode_header` (40_codec R102). -/
def decodeHeader (p : List Byte) : HeaderRec where
  op := byteAt p 0
  hop := byteAt p 1
  csum := byteAt p 2
  target := idAt p 3

/-- `encode_body` (40_codec R103). -/
def encodeBody (b : BodyRec) : List Byte :=
  [b.kind, b.csum] ++ encodeId b.target ++ le16 b.offset ++ b.payload

/-- `decode_body` (40_codec R104). -/
def decodeBody (p : List Byte) : BodyRec where
  kind := byteAt p 0
  csum := byteAt p 1
  target := idAt p 2
  offset := u16At p 14
  payload := (p.drop 16).take 512

/-- `classify_op` (40_codec R114). -/
def classifyOp (m : OpcodeMap) (v : Byte) : OpClass :=
  if v = m.ack then .ack
  else if v = m.ping then .ping
  else if v = m.read then .read
  else if v = m.write then .write
  else if v = m.exec then .exec
  else .unknown

/-- `classify_kind` (40_codec R115). -/
def classifyKind (m : KindMap) (v : Byte) : KindClass :=
  if v = m.memory then .memory
  else if v = m.sensors then .sensors
  else if v = m.code then .code
  else .unknown

/-- Why bytes are no instruction. -/
inductive DecodeError where
  /-- The bytes have not the length of the format they were framed at; no framer completes so (60_exceptions
  R203). -/
  | byteCount (n : Nat)
  /-- The operation byte is in no entry of `OPCODE_MAP` (30_encoding R82). -/
  | unknownOp (code : Byte)
  /-- The kind byte is in no entry of `KIND_MAP` (30_encoding R83). -/
  | unknownKind (code : Byte)
  deriving DecidableEq, Repr

/-- What the decoder answers. -/
inductive Decoded where
  | instr (i : Instr)
  | reject (e : DecodeError)
  deriving DecidableEq, Repr

/-- A Header of a received link as an instruction (40_codec R102, R114). -/
def decodeHeaderInstr (om : OpcodeMap) (rx : Link) (p : List Byte) : Decoded :=
  let h := decodeHeader p
  match classifyOp om h.op with
  | .ack => .instr (.ack rx h.hop h.csum h.target)
  | .ping => .instr (.ping rx h.hop h.csum h.target)
  | .read => .instr (.read rx h.hop h.csum h.target)
  | .write => .instr (.write rx h.hop h.csum h.target)
  | .exec => .instr (.exec rx h.hop h.csum h.target)
  | .unknown => .reject (.unknownOp h.op)

/-- A Body of a received link as an instruction (40_codec R104, R115). -/
def decodeBodyInstr (km : KindMap) (rx : Link) (p : List Byte) : Decoded :=
  let b := decodeBody p
  match classifyKind km b.kind with
  | .memory => .instr (.bodyMem rx b.csum b.target b.offset b.payload)
  | .sensors => .instr (.bodySens rx b.csum b.target b.offset b.payload)
  | .code => .instr (.bodyCode rx b.csum b.target b.offset b.payload)
  | .unknown => .reject (.unknownKind b.kind)

/-- The decoder. The format is not in the bytes: the framer's armed size gives it (30_encoding R70, R85). It
checks the code byte and the length and nothing else (40_codec R106). -/
def decode (om : OpcodeMap) (km : KindMap) (rx : Link) (f : Format) (p : List Byte) : Decoded :=
  if p.length = f.size then
    match f with
    | .header => decodeHeaderInstr om rx p
    | .body => decodeBodyInstr km rx p
  else .reject (.byteCount p.length)

/-- The encoder: the bytes of the packet on the wire, index 0 first (30_encoding R71, R72). -/
def encode (om : OpcodeMap) (km : KindMap) : Instr → List Byte
  | .ack _ hop csum target => encodeHeader ⟨om.ack, hop, csum, target⟩
  | .ping _ hop csum target => encodeHeader ⟨om.ping, hop, csum, target⟩
  | .read _ hop csum target => encodeHeader ⟨om.read, hop, csum, target⟩
  | .write _ hop csum target => encodeHeader ⟨om.write, hop, csum, target⟩
  | .exec _ hop csum target => encodeHeader ⟨om.exec, hop, csum, target⟩
  | .bodyMem _ csum target offset payload => encodeBody ⟨km.memory, csum, target, offset, payload⟩
  | .bodySens _ csum target offset payload => encodeBody ⟨km.sensors, csum, target, offset, payload⟩
  | .bodyCode _ csum target offset payload => encodeBody ⟨km.code, csum, target, offset, payload⟩

/-- Byte i of a packet carried as a vector is its bits [8i+7:8i] (30_encoding R71, R72). -/
def bytesOfVector (n w : Nat) : List Byte :=
  (List.range n).map fun i => BitVec.ofNat 8 (w >>> (8 * i))

/-- The format of an opcode-table word of `nbits` bits: a Header up to 120 bits, a Body above. The table gives
every row 8 bits and no byte of a packet says which format it is (30_encoding R70), so an 8-bit word is read as
a Header, which is what the endpoint's framers are armed for after reset (log 13). -/
def tableFormat (nbits : Nat) : Format := if nbits ≤ 120 then .header else .body

/-- The bytes of the packet whose first `nbits` bits are `w` and whose other bits are 0. -/
def tableBytes (nbits w : Nat) : List Byte :=
  bytesOfVector (tableFormat nbits).size (w % 2 ^ nbits)

/-- The instruction the decoder reads from an opcode-table word, under the default code maps, as a packet that
completed on the uplink. -/
def decodeTableWord (nbits w : Nat) : Option Instr :=
  match decode OpcodeMap.standard KindMap.standard .up (tableFormat nbits) (tableBytes nbits w) with
  | .instr i => some i
  | .reject _ => none

end Sys2Proof
end

