-- ==== Sys2Proof/Machine/State.lean ====
section
/-! DEFINITION. The endpoint's state as plain data: every element of 10_state R20, the transmit streams of R35,
the parameters a step needs (log 1), and the environment's pending events (log 5). -/

namespace Sys2Proof.Machine

/-- `st`, with all eight values of its 3 bits (10_state R21). No rule enters the last four; one that is held
is treated as Idle (R22, log 10). -/
inductive St where
  | idle
  | awaitingHeader
  | forwarding
  | awaitingBody
  | awaitingSensorData
  | executing
  | unused6
  | unused7
  deriving DecidableEq, Repr

/-- `fph`, with all four values of its 2 bits (10_state R23). No rule enters the last; one that is held is
treated as FWD_ACK (93_implementation_defined I5, log 10). -/
inductive Fph where
  | fwdAck
  | fwdBody
  | fwdReply
  | unused3
  deriving DecidableEq, Repr

/-- `xop`, the current exchange's operation (10_state R24). -/
inductive Xop where
  | read
  | write
  deriving DecidableEq, Repr

/-- A receive framer (10_state R25). `need` is the armed size, none for 0; `got` is `buf[0..cnt-1]` in arrival
order, so `cnt` is its length. The bytes of `buf` at and after `cnt`, which no rule reads, are not held (log 8). -/
structure Framer where
  need : Option Format
  got : List Byte
  deriving DecidableEq, Repr

/-- The four events of 10_state R30, and the power-on of 70_reset R231 (log 12). -/
inductive Event where
  /-- `RxUp(b)`. -/
  | rxUp (b : Byte)
  /-- `RxDn(b)`. -/
  | rxDn (b : Byte)
  /-- `Tick`. -/
  | tick
  /-- `Reset` (70_reset R230). -/
  | reset
  /-- Power-on (70_reset R231). -/
  | powerOn
  deriving DecidableEq, Repr

/-- `MEM` (20_memory R51), held as the bytes that are not 0x00, addresses strictly rising (log 9). -/
abbrev Memory := List Host.Cell

/-- One endpoint. -/
structure State where
  /-- The parameters of 00_scope R7; no event changes them (10_state R33). -/
  cfg : Config
  /-- The operating state (10_state R21). -/
  st : St
  /-- The forwarding phase (10_state R23). -/
  fph : Fph
  /-- The current exchange's operation (10_state R24). -/
  xop : Xop
  /-- The current exchange's target (10_state R24). -/
  xtgt : BoardId
  /-- The uplink framer (10_state R25). -/
  up : Framer
  /-- The downlink framer (10_state R25). -/
  dn : Framer
  /-- Ticks left of the settle delay (10_state R26). -/
  settle : Nat
  /-- The Header to emit downlink when the settle delay ends (10_state R27). -/
  pendDn : Option (List Byte)
  /-- Ticks left of the exchange wait; 0 when inactive (10_state R28). -/
  waitT : Nat
  /-- The sticky error-status register (10_state R29). -/
  err : BitVec 8
  /-- Device memory (20_memory R51). -/
  mem : Memory
  /-- `up_tx`, every byte emitted uplink (10_state R35). -/
  upTx : List Byte
  /-- `dn_tx`, every byte emitted downlink (10_state R35). -/
  dnTx : List Byte
  /-- The model's own: the environment's pending events, oldest first (log 5). -/
  inputs : List Event
  deriving DecidableEq, Repr

/-- Why the machine stops. No state that meets the invariant of Safety.lean reaches either. -/
inductive Fault where
  /-- Raised by a meaning that is given a packet of a format for which 41_header_ops R120's table has no row in
  the present state. Safe: R120 says that no other combination can occur (log 11). -/
  | undispatched (rx : Link) (f : Format)
  /-- Raised by the service loop for a packet that has not its format's length. Safe: 60_exceptions R203 says
  that the byte-count case cannot arise at the endpoint (log 11). -/
  | byteCount (n : Nat)
  deriving DecidableEq, Repr

/-- Why an instruction has no meaning. -/
inductive Refusal where
  /-- Raised by an arm of exec for an instruction without a meaning. No arm does. Safe. -/
  | notModelled (mnemonic : String)
  deriving DecidableEq, Repr

/-- The framer as reset leaves it: armed for a Header and empty (10_state R37). -/
def Framer.reset : Framer := ⟨some .header, []⟩

/-- The endpoint after power-on with parameters `cfg`: every element at the value of 10_state R37, `MEM` at
`MEM_INIT`, nothing emitted, nothing pending. -/
def State.powerOn (cfg : Config) : State where
  cfg := cfg
  st := .idle
  fph := .fwdAck
  xop := .read
  xtgt := BoardId.sentinel
  up := Framer.reset
  dn := Framer.reset
  settle := 0
  pendDn := none
  waitT := 0
  err := 0x00
  mem := cfg.memInit
  upTx := []
  dnTx := []
  inputs := []

/-- The machine right after reset: power-on of the sample instance (log 2). -/
def State.reset : State := State.powerOn Config.sample

end Sys2Proof.Machine
end

