-- ==== Sys2Proof/Machine/Flags.lean ====
section
/-! DEFINITION. The error-status register and the other status outputs: the eight errors of 60_exceptions R201,
their bits, `raise`, and the encodings of the registers the environment may read (10_state R36). -/

namespace Sys2Proof.Machine

/-- Why an exchange is abandoned (60_exceptions R201, "reason"). -/
inductive AbortReason where
  | preempted
  | timeout
  deriving DecidableEq, Repr

/-- The endpoint's errors with their recorded info (60_exceptions R201). The info is not stored. -/
inductive EndpointError where
  | framing (rx : Link) (code : Byte)
  | checksum (rx : Link) (packet : List Byte)
  | address (offset : Half)
  | targetMismatch (got : BoardId)
  | reservedKind (kind : KindClass)
  | overrun (rx : Link)
  | unexpected (rx : Link) (code : Byte)
  | abort (reason : AbortReason)
  deriving DecidableEq, Repr

/-- The error's code, its bit number in `err` (60_exceptions R201, 10_state R29). -/
def errorCode : EndpointError → Nat
  | .framing _ _ => 0
  | .checksum _ _ => 1
  | .address _ => 2
  | .targetMismatch _ => 3
  | .reservedKind _ => 4
  | .overrun _ => 5
  | .unexpected _ _ => 6
  | .abort _ => 7

/-- The error's bit of `err`. -/
def errorBit (e : EndpointError) : BitVec 8 := 1#8 <<< errorCode e

/-- `raise E(info)`: `err[code(E)] <- 1` and nothing else (60_exceptions R202). The rule that raises the error
gives its action. -/
def raise (e : EndpointError) (s : State) : State := { s with err := s.err ||| errorBit e }

/-- The 3-bit encoding of `st` (10_state R21). -/
def stCode : St → BitVec 3
  | .idle => 0
  | .awaitingHeader => 1
  | .forwarding => 2
  | .awaitingBody => 3
  | .awaitingSensorData => 4
  | .executing => 5
  | .unused6 => 6
  | .unused7 => 7

/-- The 2-bit encoding of `fph` (10_state R23). -/
def fphCode : Fph → BitVec 2
  | .fwdAck => 0
  | .fwdBody => 1
  | .fwdReply => 2
  | .unused3 => 3

/-- The 1-bit encoding of `xop` (10_state R24). -/
def xopCode : Xop → BitVec 1
  | .read => 0
  | .write => 1

/-- The status the environment may read and never write (10_state R36, 60_exceptions R221): `st`, `fph` and
`err`. -/
def status (s : State) : BitVec 3 × BitVec 2 × BitVec 8 := (stCode s.st, fphCode s.fph, s.err)

end Sys2Proof.Machine
end

