-- ==== Sys2Proof/Machine/Operands.lean ====
section
/-! DEFINITION. What the rules compute from a packet's fields and the parameters: the checksum validator
(40_codec R108 to R113), the Ack and the reply (R137, R159), the block address and its range (20_memory R54,
R55), and the armed sizes (41_header_ops R121). -/

namespace Sys2Proof.Machine

/-- `cover_h(p) = p[0..1] ++ p[3..14]` (40_codec R108). -/
def coverHeader (p : List Byte) : List Byte := p.take 2 ++ p.drop 3

/-- `cover_b(p) = p[0..0] ++ p[2..527]` (40_codec R108). -/
def coverBody (p : List Byte) : List Byte := p.take 1 ++ p.drop 2

/-- The checksum test at byte `at_` of a packet with covered bytes `cover` under checksum function `f`: always
true in mode `none` (40_codec R109). -/
def csumTest (mode : ChecksumMode) (f : List Byte → Byte) (cover : List Byte) (got : Byte) : Bool :=
  match mode with
  | .none => true
  | .verify => got == f cover

/-- `csum_ok_header(p)` (40_codec R110). -/
def csumOkHeader (cfg : Config) (p : List Byte) : Bool :=
  csumTest cfg.checksumMode Config.csumH (coverHeader p) (byteAt p 2)

/-- `csum_ok_body(p)` (40_codec R111). -/
def csumOkBody (cfg : Config) (p : List Byte) : Bool :=
  csumTest cfg.checksumMode Config.csumB (coverBody p) (byteAt p 1)

/-- The checksum byte of a packet the endpoint builds: 0x00 in mode `none` (40_codec R112, R113). -/
def csumFill (mode : ChecksumMode) (f : List Byte → Byte) (cover : List Byte) : Byte :=
  match mode with
  | .none => 0x00
  | .verify => f cover

/-- `gen_header(h)` (40_codec R112). -/
def genHeader (cfg : Config) (h : HeaderRec) : List Byte :=
  let p := encodeHeader { h with csum := 0x00 }
  p.set 2 (csumFill cfg.checksumMode Config.csumH (coverHeader p))

/-- `gen_body(b)` (40_codec R113). -/
def genBody (cfg : Config) (b : BodyRec) : List Byte :=
  let p := encodeBody { b with csum := 0x00 }
  p.set 1 (csumFill cfg.checksumMode Config.csumB (coverBody p))

/-- `make_ack(n)` (41_header_ops R137). -/
def makeAck (cfg : Config) (n : Byte) : HeaderRec := ⟨cfg.opcodeMap.ack, n, 0x00, cfg.ownId⟩

/-- The claim's hop count, `(h.hop + 1) mod 256` (41_header_ops R139). -/
def nextHop (hop : Byte) : Byte := hop + 1

/-- The Ping a claim sends on: hop `n`, SENTINEL target (41_header_ops R129). -/
def claimPing (cfg : Config) (n : Byte) : HeaderRec := ⟨cfg.opcodeMap.ping, n, 0x00, BoardId.sentinel⟩

/-- `reply(b, data)` (42_body_ops R159). -/
def reply (cfg : Config) (b : BodyRec) (data : List Byte) : BodyRec :=
  ⟨b.kind, 0x00, cfg.ownId, b.offset, data⟩

/-- `PAYLOAD_SIZE` (00_scope R6). -/
def payloadSize : Nat := 512

/-- The address a Body names, `zext_32(address_offset) * 512` (20_memory R54, 30_encoding R80). -/
def blockAddr (offset : Half) : Nat := (offset.setWidth 32 * 512#32).toNat

/-- In range: `addr + 512 <= MEM_BYTES`, the sum exact (20_memory R55). -/
def inRange (cfg : Config) (addr : Nat) : Bool := decide (addr + payloadSize ≤ cfg.memBytes)

/-- What `wait_t` is loaded with: 0 when `WAIT_TIMEOUT` is `none` (41_header_ops R132, 60_exceptions R215). -/
def waitLoad (cfg : Config) : Nat := cfg.waitTimeout.getD 0

/-- The rows of `arm`'s table (41_header_ops R121): what the endpoint is receiving. -/
inductive RxMode where
  /-- Idle, AwaitingHeader and the unreachable 4 to 7. -/
  | headers
  /-- AwaitingBody. -/
  | ownerBody
  /-- Forwarding, FWD_ACK. -/
  | fwdAck
  /-- Forwarding, FWD_BODY. -/
  | fwdBody
  /-- Forwarding, FWD_REPLY. -/
  | fwdReply
  deriving DecidableEq, Repr

/-- The row of `st` and `fph` (41_header_ops R120, R121; 10_state R22; 93_implementation_defined I5). -/
def rxMode (st : St) (fph : Fph) : RxMode :=
  match st with
  | .idle => .headers
  | .awaitingHeader => .headers
  | .awaitingSensorData => .headers
  | .executing => .headers
  | .unused6 => .headers
  | .unused7 => .headers
  | .awaitingBody => .ownerBody
  | .forwarding =>
    match fph with
    | .fwdAck => .fwdAck
    | .unused3 => .fwdAck
    | .fwdBody => .fwdBody
    | .fwdReply => .fwdReply

/-- What the endpoint is receiving now. -/
def State.mode (s : State) : RxMode := rxMode s.st s.fph

/-- `arm`: the armed size of a link's framer (41_header_ops R121); none is 0. -/
def armed (m : RxMode) (l : Link) : Option Format :=
  match m, l with
  | .headers, .up => some .header
  | .headers, .dn => some .header
  | .ownerBody, .up => some .body
  | .ownerBody, .dn => none
  | .fwdAck, .up => some .header
  | .fwdAck, .dn => some .header
  | .fwdBody, .up => some .body
  | .fwdBody, .dn => none
  | .fwdReply, .up => some .header
  | .fwdReply, .dn => some .body

/-- The armed size in bytes: 0, 15 or 528 (10_state R25). -/
def needBytes (n : Option Format) : Nat :=
  match n with
  | none => 0
  | some f => f.size

/-- `cnt`, the number of bytes held (10_state R25). -/
def Framer.cnt (f : Framer) : Nat := f.got.length

/-- A framer that can take no byte: not armed, or complete (41_header_ops R122, R123). -/
def Framer.full (f : Framer) : Bool := needBytes f.need == 0 || f.cnt == needBytes f.need

/-- A complete framer: `need > 0` and `cnt = need` (10_state R25). -/
def Framer.complete (f : Framer) : Bool := needBytes f.need != 0 && f.cnt == needBytes f.need

end Sys2Proof.Machine
end

