-- ==== Sys2Proof/Machine/Ops.lean ====
section
/-! DEFINITION. The named operations over memory, links and registers: `MemRead`, `MemWrite`, `Emit` (00_scope
R9), `rearm`, `to_idle`, `refresh_idle` (41_header_ops R124, R126). An error's entry is one shared operation,
`raise` with the action its rule gives (60_exceptions R202); nothing returns from one (R214). -/

namespace Sys2Proof.Machine

/-- The byte at an address; an unlisted address reads as 0x00 (log 9). -/
def Memory.read (m : Memory) (a : Nat) : Byte :=
  match m with
  | [] => 0x00
  | (b, v) :: rest => if a = b then v else Memory.read rest a

/-- A cell list entry, or none for the byte an unlisted address reads as. -/
def Memory.cell (a : Nat) (v : Byte) : Memory := if v = 0x00 then [] else [(a, v)]

/-- Writes one byte and keeps the canonical form. -/
def Memory.write (m : Memory) (a : Nat) (v : Byte) : Memory :=
  match m with
  | [] => Memory.cell a v
  | (b, w) :: rest =>
    if a < b then Memory.cell a v ++ (b, w) :: rest
    else if a = b then Memory.cell a v ++ rest
    else (b, w) :: Memory.write rest a v

/-- `MemRead(addr, n)` (20_memory R52). -/
def memRead (m : Memory) (addr n : Nat) : List Byte :=
  (List.range n).map fun i => m.read (addr + i)

/-- `MemWrite(addr, n, v)` with n the length of v: byte i of v to address addr+i (20_memory R53). -/
def memWrite (m : Memory) (addr : Nat) (v : List Byte) : Memory :=
  match v with
  | [] => m
  | b :: rest => memWrite (m.write addr b) (addr + 1) rest

/-- Every listed address is above `low`, the addresses rise strictly, and no listed byte is 0x00. -/
def Memory.wfFrom (low : Nat) (m : Memory) : Bool :=
  match m with
  | [] => true
  | (a, v) :: rest => decide (low ≤ a) && v != 0x00 && Memory.wfFrom (a + 1) rest

/-- The canonical form: addresses strictly rising, no entry equal to what an unlisted address reads as. -/
def Memory.wf (m : Memory) : Bool := Memory.wfFrom 0 m

/-- Every listed address is an address of `MEM` (20_memory R51). -/
def Memory.within (m : Memory) (n : Nat) : Bool := m.all fun c => decide (c.1 < n)

/-- `Emit(link, p)` (20_memory R57). -/
def emit (l : Link) (p : List Byte) (s : State) : State :=
  { s with
    upTx := match l with
      | .up => s.upTx ++ p
      | .dn => s.upTx
    dnTx := match l with
      | .up => s.dnTx
      | .dn => s.dnTx ++ p }

/-- A link's framer. -/
def State.framer (s : State) (l : Link) : Framer :=
  match l with
  | .up => s.up
  | .dn => s.dn

/-- Sets a link's framer. -/
def State.setFramer (s : State) (l : Link) (f : Framer) : State :=
  { s with
    up := match l with
      | .up => f
      | .dn => s.up
    dn := match l with
      | .up => s.dn
      | .dn => f }

/-- One framer's part of `rearm()`: a changed size discards the partial bytes, with Overrun if there were any
(41_header_ops R124). -/
def rearmLink (l : Link) (n : Option Format) (s : State) : State :=
  if (s.framer l).need = n then s
  else
    let s' := if (s.framer l).cnt > 0 then raise (.overrun l) s else s
    s'.setFramer l ⟨n, []⟩

/-- `rearm()` (41_header_ops R124). -/
def rearm (s : State) : State :=
  rearmLink .dn (armed s.mode .dn) (rearmLink .up (armed s.mode .up) s)

/-- `refresh_idle()` (41_header_ops R126). -/
def refreshIdle (s : State) : State :=
  match s.mode with
  | .headers => { s with st := if s.up.cnt > 0 ∨ s.dn.cnt > 0 then .awaitingHeader else .idle }
  | .ownerBody => s
  | .fwdAck => s
  | .fwdBody => s
  | .fwdReply => s

/-- `to_idle()` (41_header_ops R126). -/
def toIdle (s : State) : State :=
  refreshIdle (rearm { s with st := .idle, fph := .fwdAck, waitT := 0 })

/-- The error action Idle: the error is raised and `to_idle()` runs (60_exceptions R202 (b)). -/
def dropToIdle (e : EndpointError) (s : State) : State := toIdle (raise e s)

/-- `WaitTimeout()` (60_exceptions R215). DEDUCED, unsafe (log 22): the partial packets it discards are those of
another armed size (R124); a partial Header in a framer armed for 15 bytes stays, without Overrun. -/
def waitTimeout (s : State) : State := dropToIdle (.abort .timeout) s

/-- The instruction's own bytes on the wire: the packet `p` of the rules (log 7). -/
def packet (s : State) (i : Instr) : List Byte := encode s.cfg.opcodeMap s.cfg.kindMap i

end Sys2Proof.Machine
end

