-- ==== Sys2Proof/Machine/Reception.lean ====
section
/-! DEFINITION. What the packets of one size and link share: the rows of 41_header_ops R120's table, the
checksum test that comes before everything else (60_exceptions R211), preemption (43_relay R175), and the
relaying of Bodies (43_relay R173, R174). -/

namespace Sys2Proof.Machine

/-- `ProcUpHeader(p)`: the checksum, then `act`, what the operation does (41_header_ops R127). -/
def procUpHeader (p : List Byte) (act : State → State) (s : State) : State :=
  if csumOkHeader s.cfg p then act s
  else refreshIdle (raise (.checksum .up p) s)

/-- `Preempt(p)`: a new uplink Header while relaying (43_relay R175). DEDUCED, unsafe (log 22): what is discarded
is what R124's `rearm` discards. In FWD_REPLY a partial downlink Body goes, with Overrun; in FWD_ACK the downlink is
armed for 15 bytes before and after, so a partial downlink Header stays, without Overrun. -/
def preempt (p : List Byte) (act : State → State) (s : State) : State :=
  if csumOkHeader s.cfg p then procUpHeader p act (dropToIdle (.abort .preempted) s)
  else raise (.checksum .up p) s

/-- A 15-byte packet completed on the uplink (41_header_ops R120). -/
def recvUpHeader (p : List Byte) (act : State → State) (s : State) :
    Host.Outcome State Fault Refusal :=
  match s.mode with
  | .headers => .next (procUpHeader p act s)
  | .fwdAck => .next (preempt p act s)
  | .fwdReply => .next (preempt p act s)
  | .ownerBody => .fault (.undispatched .up .header)
  | .fwdBody => .fault (.undispatched .up .header)

/-- `DownHeader(p)`: the checksum, then `act` (43_relay R176). -/
def downHeader (p : List Byte) (act : State → State) (s : State) : State :=
  if csumOkHeader s.cfg p then act s
  else refreshIdle (raise (.checksum .dn p) s)

/-- `FwdAck(p)`: the checksum, then `act` (43_relay R171). -/
def fwdAckHeader (p : List Byte) (act : State → State) (s : State) : State :=
  if csumOkHeader s.cfg p then act s
  else raise (.checksum .dn p) s

/-- A 15-byte packet completed on the downlink (41_header_ops R120): `idleAct` outside an exchange, `ackAct`
while the relay waits for the Ack. -/
def recvDnHeader (p : List Byte) (idleAct ackAct : State → State) (s : State) :
    Host.Outcome State Fault Refusal :=
  match s.mode with
  | .headers => .next (downHeader p idleAct s)
  | .fwdAck => .next (fwdAckHeader p ackAct s)
  | .fwdReply => .fault (.undispatched .dn .header)
  | .ownerBody => .fault (.undispatched .dn .header)
  | .fwdBody => .fault (.undispatched .dn .header)

/-- A recognized Header other than Ack on the downlink outside an exchange (43_relay R177). -/
def unexpectedIdle (code : Byte) (s : State) : State := refreshIdle (raise (.unexpected .dn code) s)

/-- The same while the relay waits for the Ack (43_relay R172). -/
def unexpectedFwdAck (code : Byte) (s : State) : State := raise (.unexpected .dn code) s

/-- A Header that is a request: `act` from the uplink; from the downlink it is Unexpected (43_relay R172,
R177). -/
def recvRequest (rx : Link) (p : List Byte) (code : Byte) (act : State → State) (s : State) :
    Host.Outcome State Fault Refusal :=
  match rx with
  | .up => recvUpHeader p act s
  | .dn => recvDnHeader p (unexpectedIdle code) (unexpectedFwdAck code) s

/-- The next phase of a relay: its phase, its wait, the framers (43_relay R171, R173). -/
def enterPhase (f : Fph) (s : State) : State :=
  rearm { s with fph := f, waitT := waitLoad s.cfg }

/-- An owner's Body: the checksum, then `act` (42_body_ops R151). -/
def ownerBody (p : List Byte) (act : State → State) (s : State) : State :=
  if csumOkBody s.cfg p then act s
  else raise (.checksum .up p) s

/-- `FwdBody(p)` (43_relay R173). -/
def fwdBody (p : List Byte) (s : State) : State :=
  if csumOkBody s.cfg p then
    let s' := emit .dn p s
    match s'.xop with
    | .write => toIdle s'
    | .read => enterPhase .fwdReply s'
  else raise (.checksum .up p) s

/-- `FwdReply(p)` (43_relay R174). -/
def fwdReply (p : List Byte) (s : State) : State :=
  if csumOkBody s.cfg p then toIdle (emit .up p s)
  else raise (.checksum .dn p) s

/-- A 528-byte packet completed on a link (41_header_ops R120): `act` is what its kind does at the owner; a
relay forwards every kind alike (43_relay R180). -/
def recvBody (rx : Link) (p : List Byte) (act : State → State) (s : State) :
    Host.Outcome State Fault Refusal :=
  match rx, s.mode with
  | .up, .ownerBody => .next (ownerBody p act s)
  | .up, .fwdBody => .next (fwdBody p s)
  | .dn, .fwdReply => .next (fwdReply p s)
  | .up, .headers => .fault (.undispatched .up .body)
  | .up, .fwdAck => .fault (.undispatched .up .body)
  | .up, .fwdReply => .fault (.undispatched .up .body)
  | .dn, .headers => .fault (.undispatched .dn .body)
  | .dn, .fwdAck => .fault (.undispatched .dn .body)
  | .dn, .fwdBody => .fault (.undispatched .dn .body)
  | .dn, .ownerBody => .fault (.undispatched .dn .body)

/-- A Header whose operation byte is unrecognized: FramingError, then Idle (41_header_ops R135, 43_relay R171,
R176). -/
def recvUnknownHeader (rx : Link) (p : List Byte) (code : Byte) (s : State) :
    Host.Outcome State Fault Refusal :=
  match rx with
  | .up => recvUpHeader p (dropToIdle (.framing .up code)) s
  | .dn => recvDnHeader p (dropToIdle (.framing .dn code)) (dropToIdle (.framing .dn code)) s

/-- A Body whose kind byte is unrecognized: FramingError at the owner (42_body_ops R152), forwarded by a relay
(43_relay R180). -/
def recvUnknownBody (rx : Link) (p : List Byte) (code : Byte) (s : State) :
    Host.Outcome State Fault Refusal :=
  recvBody rx p (dropToIdle (.framing .up code)) s

end Sys2Proof.Machine
end

