-- ==== Sys2Proof/Machine/Body.lean ====
section
/-! DEFINITION. The Body operations: Memory, Sensors, Code (42_body_ops), and their relaying (43_relay R173,
R174). -/

namespace Sys2Proof.Machine

/-- The target check of an owner's Body, then `act` (42_body_ops R151, R153). -/
def checkTarget (target : BoardId) (act : State → State) (s : State) : State :=
  if target = s.xtgt then act s else dropToIdle (.targetMismatch target) s

/-- A Memory Body of a Write exchange (42_body_ops R154). -/
def writeBlock (addr : Nat) (payload : List Byte) (s : State) : State :=
  toIdle { s with mem := memWrite s.mem addr payload }

/-- A Memory Body of a Read exchange; the request's payload is not read (42_body_ops R155, R159, R160). -/
def readBlock (addr : Nat) (b : BodyRec) (s : State) : State :=
  toIdle (emit .up (genBody s.cfg (reply s.cfg b (memRead s.mem addr payloadSize))) s)

/-- A Memory Body at the owner, its target checked: the address range, then the exchange's operation
(42_body_ops R151, R154, R155, R158). -/
def memoryBody (b : BodyRec) (s : State) : State :=
  let addr := blockAddr b.offset
  if inRange s.cfg addr then
    match s.xop with
    | .write => writeBlock addr b.payload s
    | .read => readBlock addr b s
  else dropToIdle (.address b.offset) s

/-- **BODY.MEM**. At the owner: the payload to memory (42_body_ops R154) or a reply from it (R155), after the
checks of R151. At a relay: forwarded unchanged (43_relay R173, R174). -/
def execBodyMem (rx : Link) (csum : Byte) (target : BoardId) (offset : Half) (payload : List Byte)
    (s : State) : Host.Outcome State Fault Refusal :=
  let b : BodyRec := ⟨s.cfg.kindMap.memory, csum, target, offset, payload⟩
  recvBody rx (packet s (.bodyMem rx csum target offset payload)) (checkTarget target (memoryBody b)) s

/-- **BODY.SENS**. At the owner: ReservedKind, then Idle (42_body_ops R156). At a relay: forwarded unchanged
(43_relay R173, R174). -/
def execBodySens (rx : Link) (csum : Byte) (target : BoardId) (offset : Half) (payload : List Byte)
    (s : State) : Host.Outcome State Fault Refusal :=
  recvBody rx (packet s (.bodySens rx csum target offset payload))
    (checkTarget target (dropToIdle (.reservedKind .sensors))) s

/-- **BODY.CODE**. At the owner: ReservedKind, then Idle (42_body_ops R157). At a relay: forwarded unchanged
(43_relay R173, R174). -/
def execBodyCode (rx : Link) (csum : Byte) (target : BoardId) (offset : Half) (payload : List Byte)
    (s : State) : Host.Outcome State Fault Refusal :=
  recvBody rx (packet s (.bodyCode rx csum target offset payload))
    (checkTarget target (dropToIdle (.reservedKind .code))) s

end Sys2Proof.Machine
end

