-- ==== Sys2Proof/Machine/Header.lean ====
section
/-! DEFINITION. The Header operations: Ack, Ping, Read, Write, Exec (41_header_ops R128 to R134, 43_relay R171
to R177). -/

namespace Sys2Proof.Machine

/-- The claim (41_header_ops R129). -/
def claim (hop : Byte) (s : State) : State :=
  let n := nextHop hop
  let s₁ := emit .up (genHeader s.cfg (makeAck s.cfg n)) s
  let q := genHeader s.cfg (claimPing s.cfg n)
  let s₂ :=
    if s.cfg.settleTicks = 0 then emit .dn q s₁
    else { s₁ with pendDn := some q, settle := s.cfg.settleTicks }
  toIdle s₂

/-- The echo (41_header_ops R130). -/
def echo (hop : Byte) (s : State) : State :=
  toIdle (emit .up (genHeader s.cfg (makeAck s.cfg hop)) s)

/-- A Ping for another device, forwarded unchanged (41_header_ops R131). -/
def forwardPing (p : List Byte) (s : State) : State := toIdle (emit .dn p s)

/-- What a Ping from the uplink does, the sentinel test first (41_header_ops R127, R138). -/
def pingUp (p : List Byte) (hop : Byte) (target : BoardId) (s : State) : State :=
  if target = BoardId.sentinel then claim hop s
  else if target = s.cfg.ownId then echo hop s
  else forwardPing p s

/-- The owner's side of a Read or Write Header (41_header_ops R132, R133). -/
def openOwned (op : Xop) (hop : Byte) (s : State) : State :=
  let s₁ := emit .up (genHeader s.cfg (makeAck s.cfg hop)) s
  rearm { s₁ with
    st := .awaitingBody, xop := op, xtgt := s.cfg.ownId,
    settle := s.cfg.settleTicks, waitT := waitLoad s.cfg }

/-- The relay's side of a Read or Write Header (41_header_ops R132, R133; 43_relay R170). -/
def openRelayed (op : Xop) (p : List Byte) (target : BoardId) (s : State) : State :=
  let s₁ := emit .dn p s
  rearm { s₁ with
    st := .forwarding, fph := .fwdAck, xop := op, xtgt := target, waitT := waitLoad s.cfg }

/-- What a Read or Write Header from the uplink does: only the own-BoardID test decides (41_header_ops R138). -/
def openExchange (op : Xop) (p : List Byte) (hop : Byte) (target : BoardId) (s : State) : State :=
  if target = s.cfg.ownId then openOwned op hop s else openRelayed op p target s

/-- **ACK**. From the uplink: to Idle, nothing emitted (41_header_ops R128), after preemption in a relay
(43_relay R175). From the downlink: relayed uplink unchanged, in Idle (43_relay R176) and in FWD_ACK, where
the relay then waits for the Body (43_relay R171). -/
def execAck (rx : Link) (hop csum : Byte) (target : BoardId) (s : State) :
    Host.Outcome State Fault Refusal :=
  let p := packet s (.ack rx hop csum target)
  match rx with
  | .up => recvUpHeader p toIdle s
  | .dn =>
    recvDnHeader p (fun t => refreshIdle (emit .up p t)) (fun t => enterPhase .fwdBody (emit .up p t)) s

/-- **PING**. From the uplink: claim, echo or forward by its target (41_header_ops R129, R130, R131). From the
downlink: Unexpected (43_relay R172, R177). -/
def execPing (rx : Link) (hop csum : Byte) (target : BoardId) (s : State) :
    Host.Outcome State Fault Refusal :=
  let p := packet s (.ping rx hop csum target)
  recvRequest rx p s.cfg.opcodeMap.ping (pingUp p hop target) s

/-- **READ**. From the uplink: Ack and AwaitingBody at the owner, forwarding at a relay (41_header_ops R132).
From the downlink: Unexpected (43_relay R172, R177). -/
def execRead (rx : Link) (hop csum : Byte) (target : BoardId) (s : State) :
    Host.Outcome State Fault Refusal :=
  let p := packet s (.read rx hop csum target)
  recvRequest rx p s.cfg.opcodeMap.read (openExchange .read p hop target) s

/-- **WRITE**. From the uplink: Ack and AwaitingBody at the owner, forwarding at a relay (41_header_ops R133).
From the downlink: Unexpected (43_relay R172, R177). -/
def execWrite (rx : Link) (hop csum : Byte) (target : BoardId) (s : State) :
    Host.Outcome State Fault Refusal :=
  let p := packet s (.write rx hop csum target)
  recvRequest rx p s.cfg.opcodeMap.write (openExchange .write p hop target) s

/-- **EXEC**. From the uplink: to Idle without effect, for every target (41_header_ops R134). From the downlink:
Unexpected (43_relay R172, R177). -/
def execExec (rx : Link) (hop csum : Byte) (target : BoardId) (s : State) :
    Host.Outcome State Fault Refusal :=
  let p := packet s (.exec rx hop csum target)
  recvRequest rx p s.cfg.opcodeMap.exec toIdle s

end Sys2Proof.Machine
end

