-- ==== Sys2Proof/Machine/Dispatch.lean ====
section
/-! DEFINITION. The dispatch of a received packet to its meaning, one arm per constructor. -/

namespace Sys2Proof.Machine

def exec (i : Instr) (s : State) : Host.Outcome State Fault Refusal :=
  match i with
  | .ack rx hop csum target => Sys2Proof.Machine.execAck rx hop csum target s
  | .ping rx hop csum target => Sys2Proof.Machine.execPing rx hop csum target s
  | .read rx hop csum target => Sys2Proof.Machine.execRead rx hop csum target s
  | .write rx hop csum target => Sys2Proof.Machine.execWrite rx hop csum target s
  | .exec rx hop csum target => Sys2Proof.Machine.execExec rx hop csum target s
  | .bodyMem rx csum target offset payload => Sys2Proof.Machine.execBodyMem rx csum target offset payload s
  | .bodySens rx csum target offset payload => Sys2Proof.Machine.execBodySens rx csum target offset payload s
  | .bodyCode rx csum target offset payload => Sys2Proof.Machine.execBodyCode rx csum target offset payload s

end Sys2Proof.Machine
end

