-- ==== Sys2Proof/Machine/Service.lean ====
section
/-! DEFINITION. The events: a byte on a link (41_header_ops R122, R123), the service of completed framers
(R125), Tick (R136), Reset (70_reset R230) and power-on (R231). This is where a packet's bytes are taken from
the framer, decoded and run. -/

namespace Sys2Proof.Machine

/-- `ProcUp`, `ProcDn`: a packet of format `f` that completed on link `rx`, by 41_header_ops R120's table: decode
it and run it, or give a rejected packet the effect its rule gives. -/
def procPacket (rx : Link) (f : Format) (p : List Byte) (s : State) :
    Host.Outcome State Fault Refusal :=
  match decode s.cfg.opcodeMap s.cfg.kindMap rx f p with
  | .instr i => exec i s
  | .reject (.unknownOp code) => recvUnknownHeader rx p code s
  | .reject (.unknownKind code) => recvUnknownBody rx p code s
  | .reject (.byteCount n) => .fault (.byteCount n)

/-- The link whose complete framer is served next, the uplink first, and none while a settle delay runs or no
framer is complete (41_header_ops R125, 10_state R26). -/
def nextServed (s : State) : Option Link :=
  if s.settle > 0 then none
  else if s.up.complete then some .up
  else if s.dn.complete then some .dn
  else none

/-- One pass of the loop on link `l`: the packet leaves its framer, which stays armed, and is processed
(41_header_ops R125). -/
def serve (l : Link) (s : State) : Host.Outcome State Fault Refusal :=
  let f := s.framer l
  match f.need with
  | none => .next s
  | some fmt => procPacket l fmt f.got (s.setFramer l { f with got := [] })

/-- At most `n` passes of the loop of `Service()` (41_header_ops R125). -/
def serviceLoop (n : Nat) (s : State) : Host.Outcome State Fault Refusal :=
  match n with
  | 0 => .next s
  | n + 1 =>
    match nextServed s with
    | none => .next s
    | some l =>
      match serve l s with
      | .next s' => serviceLoop n s'
      | .fault r => .fault r
      | .refused r => .refused r

/-- `Service()`. Each pass empties a framer and none fills inside the loop, so two passes reach its end
(41_header_ops R125, log 16). -/
def service (s : State) : Host.Outcome State Fault Refusal := serviceLoop 2 s

/-- A byte arrives on a link: lost with Overrun at a full or disarmed framer, else stored; the first byte of a
Header leaves Idle (41_header_ops R122, R123). -/
def storeByte (l : Link) (b : Byte) (s : State) : State :=
  let f := s.framer l
  if f.full then raise (.overrun l) s
  else
    let s₁ := s.setFramer l { f with got := f.got ++ [b] }
    match s.mode, f.need with
    | .headers, some .header => { s₁ with st := .awaitingHeader }
    | _, _ => s₁

/-- `RxUp(b)` and `RxDn(b)` (41_header_ops R122, R123). -/
def receive (l : Link) (b : Byte) (s : State) : Host.Outcome State Fault Refusal :=
  service (storeByte l b s)

/-- The down-counters of a Tick: the settle delay, at whose end the pending Header is emitted, and otherwise the
wait timer (41_header_ops R136, 60_exceptions R215). -/
def tickTimers (s : State) : State :=
  if s.settle > 0 then
    let s₁ := { s with settle := s.settle - 1 }
    match s₁.pendDn with
    | some q => if s₁.settle = 0 then { emit .dn q s₁ with pendDn := none } else s₁
    | none => s₁
  else if s.waitT > 0 then
    let s₁ := { s with waitT := s.waitT - 1 }
    if s₁.waitT = 0 then waitTimeout s₁ else s₁
  else s

/-- `Tick` (41_header_ops R136). -/
def tick (s : State) : Host.Outcome State Fault Refusal := service (tickTimers s)

/-- `Reset`: every element to its value of 10_state R37 but `MEM`; nothing is emitted and what was emitted stays
(70_reset R230, R232; 10_state R35). -/
def resetEvent (s : State) : State :=
  { State.powerOn s.cfg with mem := s.mem, upTx := s.upTx, dnTx := s.dnTx, inputs := s.inputs }

/-- Power-on: `Reset` followed by `MEM <- MEM_INIT` (70_reset R231, log 12). -/
def powerOnEvent (s : State) : State := { resetEvent s with mem := s.cfg.memInit }

/-- The event function of 10_state R30 and R31. -/
def handle (e : Event) (s : State) : Host.Outcome State Fault Refusal :=
  match e with
  | .rxUp b => receive .up b s
  | .rxDn b => receive .dn b s
  | .tick => tick s
  | .reset => .next (resetEvent s)
  | .powerOn => .next (powerOnEvent s)

/-- A state whose next step completes packet `p` of format `f` on the uplink and runs it: the framers hold all
but the last byte of `p`, which is the next event, and the endpoint is in the state that takes such a packet
(AwaitingHeader for a Header, AwaitingBody for a Body) with no settle delay running (log 14). -/
def stagePacket (f : Format) (p : List Byte) (s : State) : State :=
  let s₁ := { s with
    st := match f with
      | .header => .awaitingHeader
      | .body => .awaitingBody
    xtgt := match f with
      | .header => s.xtgt
      | .body => s.cfg.ownId
    settle := 0
    pendDn := none
    inputs := .rxUp (byteAt p (f.size - 1)) :: s.inputs }
  { s₁ with
    up := ⟨armed s₁.mode .up, p.take (f.size - 1)⟩
    dn := ⟨armed s₁.mode .dn, []⟩ }

end Sys2Proof.Machine
end

