-- ==== Sys2Proof/Machine/Step.lean ====
section
/-! DEFINITION. One step of the endpoint: the oldest pending event, processed to completion (10_state R30,
R31). -/

namespace Sys2Proof.Machine

/-- One step. With no pending event the endpoint does not change (10_state R30, log 5). -/
def step (s : State) : Host.Outcome State Fault Refusal :=
  match s.inputs with
  | [] => .next s
  | e :: rest => handle e { s with inputs := rest }

/-- `s` with the packet of an opcode-table word staged so that the next step completes and runs it (log 13,
log 14). -/
def State.withFetchWord (s : State) (nbits w : Nat) : State :=
  stagePacket (tableFormat nbits) (tableBytes nbits w) s

end Sys2Proof.Machine
end

