-- ==== Sys2Proof/Machine/Chain.lean ====
section
/-! DEFINITION. The chain of 20_memory R58 to R60 and R68: endpoints E1 to EN and a host, joined by FIFO byte
links. A link is the sender's transmit stream (10_state R35) with the count of its bytes already delivered, so
every byte is delivered once and in order. The scheduler is the sequence of moves (log 19). -/

namespace Sys2Proof.Machine

/-- An endpoint of the chain and how many bytes of its two input streams it has been given. -/
structure Node where
  ep : State
  upSeen : Nat
  dnSeen : Nat
  deriving DecidableEq, Repr

/-- The chain: `nodes[k]` is E(k+1); `hostTx` is the host's transmit stream and `hostSeen` how many bytes of
E1's uplink stream the host has received. -/
structure Chain where
  nodes : List Node
  hostTx : List Byte
  hostSeen : Nat
  deriving DecidableEq, Repr

/-- What the scheduler may do next (20_memory R61; 30_encoding R88). Node numbers start at 0. -/
inductive ChainMove where
  /-- The host appends a packet to its transmit stream. -/
  | hostSend (p : List Byte)
  /-- The host receives one byte. -/
  | hostRecv
  /-- One byte is delivered to node k's uplink. -/
  | deliverUp (k : Nat)
  /-- One byte is delivered to node k's downlink. -/
  | deliverDn (k : Nat)
  /-- One `Tick` at node k. -/
  | tick (k : Nat)
  /-- `Reset` of node k. -/
  | reset (k : Nat)
  /-- Power-on of node k. -/
  | powerOn (k : Nat)
  deriving DecidableEq, Repr

/-- The stream that feeds node k's uplink: the host's for E1, else the downlink stream of the node before it
(20_memory R59). -/
def Chain.upStream (c : Chain) (k : Nat) : List Byte :=
  match k with
  | 0 => c.hostTx
  | j + 1 =>
    match c.nodes[j]? with
    | some n => n.ep.dnTx
    | none => []

/-- The stream that feeds node k's downlink: the uplink stream of the node after it; nothing for the last node
(20_memory R59, R60). -/
def Chain.dnStream (c : Chain) (k : Nat) : List Byte :=
  match c.nodes[k + 1]? with
  | some n => n.ep.upTx
  | none => []

/-- The stream that feeds the host: E1's uplink stream (20_memory R59). -/
def Chain.hostStream (c : Chain) : List Byte :=
  match c.nodes[0]? with
  | some n => n.ep.upTx
  | none => []

/-- The bytes the host has received. -/
def Chain.hostReceived (c : Chain) : List Byte := c.hostStream.take c.hostSeen

/-- Event `e` at node k, whose delivery counts become those of `n`. -/
def Chain.runNode (c : Chain) (k : Nat) (n : Node) (e : Event) : Host.Outcome Chain Fault Refusal :=
  match handle e n.ep with
  | .next ep => .next { c with nodes := c.nodes.set k { n with ep := ep } }
  | .fault r => .fault r
  | .refused r => .refused r

/-- One move. A delivery with no byte pending, and a move of a node that does not exist, change nothing. -/
def Chain.move (m : ChainMove) (c : Chain) : Host.Outcome Chain Fault Refusal :=
  match m with
  | .hostSend p => .next { c with hostTx := c.hostTx ++ p }
  | .hostRecv =>
    if c.hostSeen < c.hostStream.length then .next { c with hostSeen := c.hostSeen + 1 } else .next c
  | .deliverUp k =>
    match c.nodes[k]? with
    | none => .next c
    | some n =>
      match (c.upStream k)[n.upSeen]? with
      | none => .next c
      | some b => c.runNode k { n with upSeen := n.upSeen + 1 } (.rxUp b)
  | .deliverDn k =>
    match c.nodes[k]? with
    | none => .next c
    | some n =>
      match (c.dnStream k)[n.dnSeen]? with
      | none => .next c
      | some b => c.runNode k { n with dnSeen := n.dnSeen + 1 } (.rxDn b)
  | .tick k =>
    match c.nodes[k]? with
    | none => .next c
    | some n => c.runNode k n .tick
  | .reset k =>
    match c.nodes[k]? with
    | none => .next c
    | some n => c.runNode k n .reset
  | .powerOn k =>
    match c.nodes[k]? with
    | none => .next c
    | some n => c.runNode k n .powerOn

/-- A run: the moves in order. -/
def Chain.run (ms : List ChainMove) (c : Chain) : Host.Outcome Chain Fault Refusal :=
  match ms with
  | [] => .next c
  | m :: rest =>
    match c.move m with
    | .next c' => Chain.run rest c'
    | .fault r => .fault r
    | .refused r => .refused r

/-- The chain with every endpoint at power-on and every link empty (70_reset R236). -/
def Chain.powerOn (cfgs : List Config) : Chain where
  nodes := cfgs.map fun cfg => ⟨State.powerOn cfg, 0, 0⟩
  hostTx := []
  hostSeen := 0

/-- The boot requirement of a chain: the BoardIDs are distinct (70_reset R234). -/
abbrev Chain.DistinctIds (c : Chain) : Prop := (c.nodes.map fun n => n.ep.cfg.ownId).Nodup

/-- Node k has no byte pending on either link, runs no timer, and has no complete framer. -/
def Chain.nodeQuiet (c : Chain) (k : Nat) : Bool :=
  match c.nodes[k]? with
  | none => true
  | some n =>
    n.upSeen == (c.upStream k).length && n.dnSeen == (c.dnStream k).length &&
    n.ep.settle == 0 && n.ep.waitT == 0 && !n.ep.up.complete && !n.ep.dn.complete

/-- A quiescent chain (20_memory R68). It says nothing of `st`. -/
def Chain.quiescent (c : Chain) : Bool :=
  c.hostSeen == c.hostStream.length && (List.range c.nodes.length).all c.nodeQuiet

/-- Every endpoint is in Idle, the postcondition 20_memory R68 asks a claim about the chain to name. -/
def Chain.allIdle (c : Chain) : Bool := c.nodes.all fun n => n.ep.st == .idle

/-- What is observed of a run (20_memory R68): `st`, `err` and `MEM` of each endpoint, and the bytes delivered
to the host. -/
def Chain.observation (c : Chain) : List (St × BitVec 8 × Memory) × List Byte :=
  (c.nodes.map fun n => (n.ep.st, n.ep.err, n.ep.mem), c.hostReceived)

/-- No link has delivered more bytes than were sent on it (20_memory R58). -/
def Chain.DeliveredWithinSent (c : Chain) : Prop :=
  c.hostSeen ≤ c.hostStream.length ∧ ∀ k n, c.nodes[k]? = some n →
    n.upSeen ≤ (c.upStream k).length ∧ n.dnSeen ≤ (c.dnStream k).length

/-- A step of a host program (30_encoding R89). -/
inductive HostStep where
  /-- `H> p`: the host appends a packet to its transmit stream (30_encoding R88). -/
  | send (p : List Byte)
  /-- The host receives one packet of a format; it blocks until the whole of it has come. -/
  | receive (f : Format)
  deriving DecidableEq, Repr

/-- The host need not block: what it is to receive has been sent (30_encoding R89). -/
def Chain.hostReady (c : Chain) (h : HostStep) : Bool :=
  match h with
  | .send _ => true
  | .receive f => decide (c.hostSeen + f.size ≤ c.hostStream.length)

/-- The moves of a host step that need not block. -/
def HostStep.moves (h : HostStep) : List ChainMove :=
  match h with
  | .send p => [.hostSend p]
  | .receive f => List.replicate f.size .hostRecv

/-- The packet a `receive` step that need not block gives the host: an Ack, or the Body whose payload a Read
returns (30_encoding R89). -/
def Chain.hostPacket (c : Chain) (f : Format) : List Byte := (c.hostStream.drop c.hostSeen).take f.size

/-- `HDR` with the code byte `op` and the target `t`, the omitted `hop` and `cs` 0 (30_encoding R87). -/
def hostHeader (op : Byte) (t : BoardId) : HostStep := .send (encodeHeader ⟨op, 0x00, 0x00, t⟩)

/-- `BODY MEM tgt=t off=o data=d`, the omitted `cs` 0 and the listed bytes followed by zeros up to 512
(30_encoding R87). -/
def hostBody (cfg : Config) (t : BoardId) (o : Half) (d : List Byte) : HostStep :=
  .send (encodeBody ⟨cfg.kindMap.memory, 0x00, t, o,
    (d ++ List.replicate payloadSize 0x00).take payloadSize⟩)

/-- `DISCOVER n` (30_encoding R89). -/
def hostDiscover (cfg : Config) (n : Nat) : List HostStep :=
  hostHeader cfg.opcodeMap.ping BoardId.sentinel :: List.replicate n (.receive .header)

/-- `READ t, o` (30_encoding R89); the request's payload is `zero`. -/
def hostRead (cfg : Config) (t : BoardId) (o : Half) : List HostStep :=
  [hostHeader cfg.opcodeMap.read t, .receive .header, hostBody cfg t o [], .receive .body]

/-- `WRITE t, o, d` (30_encoding R89); no further reply is waited for. -/
def hostWrite (cfg : Config) (t : BoardId) (o : Half) (d : List Byte) : List HostStep :=
  [hostHeader cfg.opcodeMap.write t, .receive .header, hostBody cfg t o d]

end Sys2Proof.Machine
end

