-- ==== Sys2Proof/Safety.lean ====
section
/-! DEFINITION. What a safe endpoint is: the constraints on its parameters (00_scope R7, 70_reset R234, R235),
the invariant that the spec's rules keep, and a step that does not stop. Every predicate is decidable. -/

namespace Sys2Proof.Machine

/-- The constraint column of 00_scope R7, with `MEM_INIT` in canonical form and inside `MEM` (20_memory R51). -/
abbrev ConfigOk (c : Config) : Prop :=
  c.ownId ≠ BoardId.sentinel ∧ c.opcodeMap.Injective ∧ c.kindMap.Injective ∧
  (0 < c.memBytes ∧ c.memBytes ≤ 2 ^ 25) ∧
  (Memory.wf c.memInit = true ∧ Memory.within c.memInit c.memBytes = true) ∧
  c.waitTimeout ≠ some 0

/-- `st` and `fph` hold no reserved or unused value (10_state R22, R23), and a phase other than FWD_ACK is held
only while Forwarding (R23). -/
abbrev LegalSequencer (s : State) : Prop :=
  s.st ∈ [St.idle, St.awaitingHeader, St.forwarding, St.awaitingBody] ∧
  s.fph ∈ [Fph.fwdAck, Fph.fwdBody, Fph.fwdReply] ∧
  (s.fph ≠ .fwdAck → s.st = .forwarding)

/-- Both framers are armed as 41_header_ops R121's table says. -/
abbrev FramersArmed (s : State) : Prop :=
  s.up.need = armed s.mode .up ∧ s.dn.need = armed s.mode .dn

/-- No framer holds more than it is armed for, and none is left complete unless a settle delay runs (10_state
R25, 41_header_ops R125). -/
abbrev FramersServed (s : State) : Prop :=
  (s.up.cnt ≤ needBytes s.up.need ∧ s.dn.cnt ≤ needBytes s.dn.need) ∧
  (s.settle = 0 → s.up.complete = false ∧ s.dn.complete = false)

/-- Idle means that both framers are empty, AwaitingHeader that one is not (10_state R21). -/
abbrev IdleMeaning (s : State) : Prop :=
  (s.st = .idle → s.up.cnt = 0 ∧ s.dn.cnt = 0) ∧
  (s.st = .awaitingHeader → 0 < s.up.cnt ∨ 0 < s.dn.cnt)

/-- The timers and the pending Header (10_state R26, R27, R28; 41_header_ops R136; 60_exceptions R215). -/
abbrev TimersLegal (s : State) : Prop :=
  s.settle ≤ s.cfg.settleTicks ∧
  (0 < s.settle → s.mode = .headers ∨ s.mode = .ownerBody) ∧
  (s.pendDn ≠ none → 0 < s.settle ∧ s.mode = .headers) ∧
  (∀ q ∈ s.pendDn, q.length = 15) ∧
  s.waitT ≤ waitLoad s.cfg ∧
  (s.waitT = 0 ↔ s.mode = .headers ∨ s.cfg.waitTimeout = none)

/-- The exchange registers (10_state R24, 43_relay R170). -/
abbrev ExchangeLegal (s : State) : Prop :=
  (s.st = .awaitingBody → s.xtgt = s.cfg.ownId) ∧
  (s.st = .forwarding → s.xtgt ≠ s.cfg.ownId) ∧
  (s.mode = .fwdReply → s.xop = .read)

/-- Memory is in canonical form and holds no address at or above `MEM_BYTES` (20_memory R51). -/
abbrev MemoryLegal (s : State) : Prop :=
  Memory.wf s.mem = true ∧ Memory.within s.mem s.cfg.memBytes = true

/-- The invariant of the endpoint between events. -/
abbrev EndpointInv (s : State) : Prop :=
  ConfigOk s.cfg ∧ LegalSequencer s ∧ FramersArmed s ∧ FramersServed s ∧ IdleMeaning s ∧
  TimersLegal s ∧ ExchangeLegal s ∧ MemoryLegal s

/-- Idle or AwaitingHeader, by the bytes the framers hold (10_state R21, 41_header_ops R126). -/
def restingSt (up dn : Framer) : St :=
  if up.cnt > 0 ∨ dn.cnt > 0 then .awaitingHeader else .idle

/-- What re-arming at size `n` leaves of a framer (41_header_ops R124). -/
def rearmed (n : Option Format) (f : Framer) : Framer := if f.need = n then f else ⟨n, []⟩

/-- The OVR bit when re-arming at size `n` discards bytes, else no bit (41_header_ops R124, 10_state R29). -/
def lostBy (n : Option Format) (f : Framer) : BitVec 8 :=
  if f.need ≠ n ∧ f.cnt > 0 then 0x20 else 0x00

/-- The event that delivers a byte on a link (10_state R30). -/
def rxEvent (l : Link) (b : Byte) : Event :=
  match l with
  | .up => .rxUp b
  | .dn => .rxDn b

/-- The other link. -/
def otherLink (l : Link) : Link :=
  match l with
  | .up => .dn
  | .dn => .up

/-- The endpoint goes on: its next step neither faults nor is refused (60_exceptions R214). -/
def GoesOn (s : State) : Prop := ∃ t, step s = .next t

end Sys2Proof.Machine
end

