-- ==== Sys2Proof/Certificates/Slice0/Obligations.lean ====
section
/-! DEFINITION. The statements for the provers. Where a statement gives the whole next state as
`{ s with … }`, every field it does not name is unchanged: that is its frame, memory included. -/

open Sys2Proof Sys2Proof.Machine

/-! ## The codec -/

/-- 40_codec R101 to R105: the codec is a bijection between byte vectors and records, for both formats. The
converse laws are the spec's own inference (the mark at the end of R105). -/
def Obligations.CodecIsABijection : Prop :=
  (∀ h : HeaderRec, (encodeHeader h).length = 15 ∧ decodeHeader (encodeHeader h) = h) ∧
  (∀ b : BodyRec, b.WellFormed → (encodeBody b).length = 528 ∧ decodeBody (encodeBody b) = b) ∧
  (∀ p : List Byte, p.length = 15 → encodeHeader (decodeHeader p) = p) ∧
  (∀ p : List Byte, p.length = 528 →
    encodeBody (decodeBody p) = p ∧ (decodeBody p).WellFormed)

/-- 40_codec R101 to R104, R114, R115: under injective code maps, decoding what a well-formed instruction
encodes to gives the instruction back, with every operand. -/
def Obligations.DecodeOfEncodeGivesTheInstruction : Prop :=
  ∀ (om : OpcodeMap) (km : KindMap) (i : Instr), om.Injective → km.Injective → i.WellFormed →
    decode om km i.rx i.format (encode om km i) = .instr i

/-- 40_codec R105, 43_relay R178: encoding a decoded packet gives its very bytes, under any code maps. -/
def Obligations.EncodeOfDecodeGivesThePacket : Prop :=
  ∀ (om : OpcodeMap) (km : KindMap) (rx : Link) (f : Format) (p : List Byte) (i : Instr),
    decode om km rx f p = .instr i →
    encode om km i = p ∧ i.rx = rx ∧ i.format = f ∧ i.WellFormed

/-- 30_encoding R82, R83; 40_codec R106: a packet of its format's length is rejected exactly when its code byte
is in no entry of the code map, and then by that code; no other byte is looked at. -/
def Obligations.OnlyUnknownCodesAreRejected : Prop :=
  ∀ (om : OpcodeMap) (km : KindMap) (rx : Link) (p : List Byte),
    (p.length = 15 →
      if byteAt p 0 ∈ [om.ack, om.ping, om.read, om.write, om.exec] then
        ∃ i, decode om km rx .header p = .instr i
      else decode om km rx .header p = .reject (.unknownOp (byteAt p 0))) ∧
    (p.length = 528 →
      if byteAt p 0 ∈ [km.memory, km.sensors, km.code] then
        ∃ i, decode om km rx .body p = .instr i
      else decode om km rx .body p = .reject (.unknownKind (byteAt p 0)))

/-- 30_encoding R71, R72, R76, R77: packets written out byte by byte decode to the instructions they stand for
under the default code maps. -/
def Obligations.WrittenOutPacketsDecode : Prop :=
  decode OpcodeMap.standard KindMap.standard .up .header
      [0x02, 0x07, 0x5A, 0x44, 0x33, 0x22, 0x11, 0x88, 0x77, 0x66, 0x55, 0xCC, 0xBB, 0xAA, 0x99] =
    .instr (.read .up 0x07 0x5A ⟨0x11223344, 0x55667788, 0x99AABBCC⟩) ∧
  decode OpcodeMap.standard KindMap.standard .dn .header
      [0x00, 0x01, 0x00, 0x01, 0x00, 0x00, 0x00, 0x02, 0x00, 0x00, 0x00, 0x03, 0x00, 0x00, 0x00] =
    .instr (.ack .dn 0x01 0x00 ⟨0x1, 0x2, 0x3⟩) ∧
  decode OpcodeMap.standard KindMap.standard .up .body
      ([0x00, 0x00, 0x01, 0x00, 0x00, 0x00, 0x02, 0x00, 0x00, 0x00, 0x03, 0x00, 0x00, 0x00, 0x02, 0x01] ++
        List.replicate 512 0x00) =
    .instr (.bodyMem .up 0x00 ⟨0x1, 0x2, 0x3⟩ 0x0102 (List.replicate 512 0x00))

/-- 40_codec R110, R111: when a received packet's checksum is accepted. -/
def Obligations.ChecksumAcceptance : Prop :=
  ∀ (cfg : Config) (p : List Byte),
    (csumOkHeader cfg p = true ↔
      cfg.checksumMode = .none ∨ byteAt p 2 = Config.csumH (p.take 2 ++ p.drop 3)) ∧
    (csumOkBody cfg p = true ↔
      cfg.checksumMode = .none ∨ byteAt p 1 = Config.csumB (p.take 1 ++ p.drop 2))

/-- 40_codec R112, R113, R110, R111: every packet the endpoint builds passes the checksum test in either mode,
decodes to the record it was built from but for its checksum, and in mode `none` carries checksum 0x00. -/
def Obligations.BuiltPacketsCarryTheirChecksum : Prop :=
  (∀ (cfg : Config) (h : HeaderRec),
    csumOkHeader cfg (genHeader cfg h) = true ∧
    (∃ c, genHeader cfg h = encodeHeader { h with csum := c }) ∧
    (cfg.checksumMode = .none → genHeader cfg h = encodeHeader { h with csum := 0x00 })) ∧
  (∀ (cfg : Config) (b : BodyRec),
    csumOkBody cfg (genBody cfg b) = true ∧
    (∃ c, genBody cfg b = encodeBody { b with csum := c }) ∧
    (cfg.checksumMode = .none → genBody cfg b = encodeBody { b with csum := 0x00 }))

/-! ## Memory -/

/-- 20_memory R54: the address a Body names is 512 times its offset, at most 0x1FFFE00. -/
def Obligations.BlockAddressIsOffsetTimes512 : Prop :=
  ∀ offset : Half, blockAddr offset = offset.toNat * 512 ∧ blockAddr offset ≤ 0x1FFFE00

/-- 20_memory R52, R53: `MemWrite` sets byte addr+i to v[i] and leaves every other byte, and `MemRead` returns
the bytes in address order. -/
def Obligations.MemReadSeesMemWrite : Prop :=
  ∀ (m : Memory) (addr : Nat) (v : List Byte), m.wf = true →
    (∀ a, Memory.read (memWrite m addr v) a =
      if addr ≤ a ∧ a < addr + v.length then byteAt v (a - addr) else m.read a) ∧
    memRead (memWrite m addr v) addr v.length = v ∧
    (∀ n i, i < n → byteAt (memRead m addr n) i = m.read (addr + i))

/-! ## Reset and power-on -/

/-- 10_state R37, 70_reset R233: what the endpoint holds at power-on, whatever its parameters. That the framers
hold no byte stands for the unspecified `buf` (log 8); the empty transmit streams and event list are the
model's (log 5, log 15). -/
def Obligations.PowerOnValues : Prop :=
  ∀ cfg : Config,
    let s := State.powerOn cfg
    s.cfg = cfg ∧ s.st = .idle ∧ stCode s.st = 0 ∧ s.fph = .fwdAck ∧ fphCode s.fph = 0 ∧
    s.xop = .read ∧ xopCode s.xop = 0 ∧ s.xtgt = ⟨0, 0, 0⟩ ∧
    needBytes s.up.need = 15 ∧ needBytes s.dn.need = 15 ∧ s.up.cnt = 0 ∧ s.dn.cnt = 0 ∧
    s.settle = 0 ∧ s.pendDn = none ∧ s.waitT = 0 ∧ s.err = 0x00 ∧ s.mem = cfg.memInit ∧
    s.upTx = [] ∧ s.dnTx = [] ∧ s.inputs = []

/-- 70_reset R230: `Reset` at any time gives every element its value of 10_state R37 but `MEM`, and emits
nothing. -/
def Obligations.ResetStep : Prop :=
  ∀ (s : State) (rest : List Event), s.inputs = .reset :: rest →
    step s = .next { s with
      st := .idle, fph := .fwdAck, xop := .read, xtgt := ⟨0, 0, 0⟩
      up := ⟨some .header, []⟩, dn := ⟨some .header, []⟩
      settle := 0, pendDn := none, waitT := 0, err := 0x00, inputs := rest }

/-- 70_reset R231: power-on, which the model takes as an event (log 12), is `Reset` followed by
`MEM <- MEM_INIT`. -/
def Obligations.PowerOnStep : Prop :=
  ∀ (s : State) (rest : List Event), s.inputs = .powerOn :: rest →
    ∃ t, step { s with inputs := .reset :: rest } = .next t ∧
      step s = .next { t with mem := s.cfg.memInit }

/-- 10_state R37: the endpoint at power-on meets the invariant, for all parameters that meet their constraints,
and so does the machine's reset state (whose parameters are the model's choice, log 2). -/
def Obligations.PowerOnMeetsTheInvariant : Prop :=
  (∀ cfg, ConfigOk cfg → EndpointInv (State.powerOn cfg)) ∧ EndpointInv State.reset

/-! ## The whole machine -/

/-- Every step keeps the invariant of Safety.lean: legal sequencer states, armed and served framers, the
meaning of Idle and AwaitingHeader, legal timers, the exchange registers, canonical memory inside `MEM`. -/
def Obligations.EveryStepKeepsTheInvariant : Prop :=
  ∀ s t : State, EndpointInv s → step s = .next t → EndpointInv t

/-- 60_exceptions R214, 41_header_ops R120: from a state that meets the invariant no step stops, whatever the
event and whatever the bytes. -/
def Obligations.NoInputStopsTheEndpoint : Prop :=
  ∀ s : State, EndpointInv s → GoesOn s

/-- 41_header_ops R120, R121: every instruction runs in every state whose framer on its link is armed for its
size, whatever else the state holds. In a state that is not armed for it, which R120 says cannot occur, the model
stops by name (log 11). -/
def Obligations.OnlyArmedPacketsAreDispatched : Prop :=
  ∀ (i : Instr) (s : State),
    if armed s.mode i.rx = some i.format then ∃ t, exec i s = .next t
    else exec i s = .fault (.undispatched i.rx i.format)

/-- 10_state R32, R33: no event changes a parameter. -/
def Obligations.NoStepChangesAParameter : Prop :=
  ∀ s t : State, step s = .next t → t.cfg = s.cfg

/-- 10_state R22, R23: no step writes `st` with a reserved or unused value, or `fph` with 3: one that holds
such a value after a step held it before. -/
def Obligations.ReservedStatesAreNeverEntered : Prop :=
  ∀ s t : State, step s = .next t →
    (t.st ∈ [St.awaitingSensorData, St.executing, St.unused6, St.unused7] → t.st = s.st) ∧
    (t.fph = .unused3 → s.fph = .unused3)

/-- 10_state R22: a held `st` of 4 to 7 behaves exactly as Idle: the step is the same but that `st` may go on
holding the value where Idle would be held. -/
def Obligations.ReservedStatesBehaveAsIdle : Prop :=
  ∀ s : State, s.st ∈ [St.awaitingSensorData, St.executing, St.unused6, St.unused7] →
    match step { s with st := .idle } with
    | .next t => step s = .next t ∨ (t.st = .idle ∧ step s = .next { t with st := s.st })
    | .fault r => step s = .fault r
    | .refused r => step s = .refused r

/-- 10_state R29, 60_exceptions R214: a bit of `err` that is set stays set through every event but `Reset` and
power-on. -/
def Obligations.ErrorBitsAreSticky : Prop :=
  ∀ s t : State, step s = .next t → s.inputs.head? ≠ some .reset → s.inputs.head? ≠ some .powerOn →
    ∀ k : Nat, s.err.getLsbD k = true → t.err.getLsbD k = true

/-- 10_state R35, 70_reset R232: the transmit streams only grow, through every event, `Reset` among them. -/
def Obligations.TransmitStreamsOnlyGrow : Prop :=
  ∀ s t : State, step s = .next t → (∃ u, t.upTx = s.upTx ++ u) ∧ (∃ d, t.dnTx = s.dnTx ++ d)

/-- 20_memory R51, 60_exceptions R213: an instruction leaves every byte of memory as it was, but for a Memory
Body that completes at the owner of a Write exchange with its checksum, target and range good, which changes no
byte outside its block. -/
def Obligations.OnlyAnOwnersWriteChangesMemory : Prop :=
  ∀ (i : Instr) (s t : State), exec i s = .next t →
    t.mem = s.mem ∨
    ∃ csum target offset payload,
      i = .bodyMem .up csum target offset payload ∧ s.st = .awaitingBody ∧ s.xop = .write ∧
      csumOkBody s.cfg (encode s.cfg.opcodeMap s.cfg.kindMap i) = true ∧
      target = s.xtgt ∧ offset.toNat * 512 + 512 ≤ s.cfg.memBytes ∧
      (s.mem.wf = true → i.WellFormed →
        ∀ a, ¬ (offset.toNat * 512 ≤ a ∧ a < offset.toNat * 512 + 512) → t.mem.read a = s.mem.read a)

/-! ## Events -/

/-- A step runs the decoded instruction: when the pending byte completes the packet of a framer, no settle delay
runs, the other framer is not complete and the packet decodes to `i`, the step is `exec i`. Around it: the event
is consumed, the framer is emptied and stays armed, and a Header's last byte leaves `st` AwaitingHeader as its
first byte did (41_header_ops R122, R123, R125). -/
def Obligations.StepRunsTheDecodedInstruction : Prop :=
  ∀ (s : State) (l : Link) (b : Byte) (rest : List Event) (f : Format) (i : Instr),
    s.inputs = rxEvent l b :: rest → s.settle = 0 →
    (s.framer l).need = some f → (s.framer l).cnt + 1 = f.size →
    (s.framer (otherLink l)).complete = false →
    decode s.cfg.opcodeMap s.cfg.kindMap l f ((s.framer l).got ++ [b]) = .instr i →
    step s = exec i { s.setFramer l ⟨some f, []⟩ with
      st := if s.mode = .headers ∧ f = .header then .awaitingHeader else s.st
      inputs := rest }

/-- 41_header_ops R125, R136: the Tick that ends a settle delay emits the pending Header and then runs the
packet that completed during the delay. -/
def Obligations.SettleEndRunsTheHeldPacket : Prop :=
  ∀ (s : State) (l : Link) (rest : List Event) (f : Format) (i : Instr),
    s.inputs = .tick :: rest → s.settle = 1 →
    (s.framer l).need = some f → (s.framer l).cnt = f.size →
    (s.framer (otherLink l)).complete = false →
    decode s.cfg.opcodeMap s.cfg.kindMap l f (s.framer l).got = .instr i →
    step s = exec i { s.setFramer l ⟨some f, []⟩ with
      settle := 0, pendDn := none, dnTx := s.dnTx ++ s.pendDn.getD [], inputs := rest }

/-- 41_header_ops R125, 60_exceptions R212: when both framers are complete the uplink's packet runs first, then
the downlink's, unless the first starts a settle delay or discards the second. -/
def Obligations.UplinkIsServedFirst : Prop :=
  ∀ (s t : State) (rest : List Event) (f g : Format) (i j : Instr),
    s.inputs = .tick :: rest → s.settle = 1 →
    s.up.need = some f → s.up.cnt = f.size → s.dn.need = some g → s.dn.cnt = g.size →
    decode s.cfg.opcodeMap s.cfg.kindMap .up f s.up.got = .instr i →
    decode s.cfg.opcodeMap s.cfg.kindMap .dn g s.dn.got = .instr j →
    exec i { s with
      up := ⟨some f, []⟩, settle := 0, pendDn := none
      dnTx := s.dnTx ++ s.pendDn.getD [], inputs := rest } = .next t →
    if t.settle = 0 ∧ t.dn = s.dn then step s = exec j { t with dn := ⟨some g, []⟩ }
    else step s = .next t

/-- 41_header_ops R122, R123; 70_reset R247: a byte that completes no packet, or that arrives during a settle
delay. At a framer that is not armed or is complete it is lost and OVR is set; else it is stored, and in Idle
the first byte of a Header moves to AwaitingHeader. -/
def Obligations.ReceivedByteIsStoredOrLost : Prop :=
  ∀ (s : State) (l : Link) (b : Byte) (rest : List Event),
    s.inputs = rxEvent l b :: rest →
    0 < s.settle ∨
      ((s.framer (otherLink l)).complete = false ∧ (s.framer l).complete = false ∧
        (s.framer l).cnt + 1 ≠ needBytes (s.framer l).need) →
    if needBytes (s.framer l).need = 0 ∨ (s.framer l).cnt = needBytes (s.framer l).need then
      step s = .next { s with err := s.err ||| 0x20, inputs := rest }
    else
      step s = .next { s.setFramer l ⟨(s.framer l).need, (s.framer l).got ++ [b]⟩ with
        st := if s.mode = .headers ∧ (s.framer l).need = some .header then .awaitingHeader else s.st
        inputs := rest }

/-- 41_header_ops R125: after every event a settle delay runs or no framer is complete, in any state. -/
def Obligations.ServiceLeavesNoPacketWaiting : Prop :=
  ∀ (e : Event) (s t : State), handle e s = .next t →
    0 < t.settle ∨ (t.up.complete = false ∧ t.dn.complete = false)

/-- 41_header_ops R136: what a Tick does to the timers when no packet is waiting. The wait timer pauses during a
settle delay, and at the delay's end the pending Header goes out on the downlink. -/
def Obligations.TickCountsDown : Prop :=
  ∀ (s : State) (rest : List Event), s.inputs = .tick :: rest →
    (1 < s.settle → step s = .next { s with settle := s.settle - 1, inputs := rest }) ∧
    (s.up.complete = false → s.dn.complete = false →
      (s.settle = 1 →
        step s = .next { s with
          settle := 0, pendDn := none, dnTx := s.dnTx ++ s.pendDn.getD [], inputs := rest }) ∧
      (s.settle = 0 → 1 < s.waitT → step s = .next { s with waitT := s.waitT - 1, inputs := rest }) ∧
      (s.settle = 0 → s.waitT = 0 → step s = .next { s with inputs := rest }))

/-- 60_exceptions R215: the Tick that brings the wait timer to 0 raises Abort and returns to Idle, discarding
partial packets of another size with Overrun. That a partial Header stays in a framer already armed for 15 bytes, as
R124 has it, is the model's reading (log 22). -/
def Obligations.WaitTimeoutAborts : Prop :=
  ∀ (s : State) (rest : List Event), s.inputs = .tick :: rest →
    s.settle = 0 → s.waitT = 1 → s.up.complete = false → s.dn.complete = false →
    step s = .next { s with
      st := restingSt (rearmed (some .header) s.up) (rearmed (some .header) s.dn)
      fph := .fwdAck, waitT := 0
      up := rearmed (some .header) s.up
      dn := rearmed (some .header) s.dn
      err := s.err ||| 0x80 ||| lostBy (some .header) s.up ||| lostBy (some .header) s.dn
      inputs := rest }

/-! ## Headers from the uplink, outside an exchange -/

/-- 41_header_ops R128: an uplink Ack returns to Idle; it is not forwarded and not answered. -/
def Obligations.UplinkAckReturnsToIdle : Prop :=
  ∀ (s : State) (hop csum : Byte) (target : BoardId),
    s.mode = .headers → FramersArmed s →
    csumOkHeader s.cfg (encodeHeader ⟨s.cfg.opcodeMap.ack, hop, csum, target⟩) = true →
    exec (.ack .up hop csum target) s =
      .next { s with st := restingSt s.up s.dn, fph := .fwdAck, waitT := 0 }

/-- 41_header_ops R129, R139: a Ping with the SENTINEL target is claimed. The Ack with the incremented hop count
goes uplink at once; the Ping for the next device goes downlink at once when `SETTLE_TICKS` is 0 and else waits
for the settle delay that starts. -/
def Obligations.SentinelPingIsClaimed : Prop :=
  ∀ (s : State) (hop csum : Byte),
    s.mode = .headers → FramersArmed s →
    csumOkHeader s.cfg (encodeHeader ⟨s.cfg.opcodeMap.ping, hop, csum, ⟨0, 0, 0⟩⟩) = true →
    let n := BitVec.ofNat 8 ((hop.toNat + 1) % 256)
    let ackBytes := genHeader s.cfg ⟨s.cfg.opcodeMap.ack, n, 0x00, s.cfg.ownId⟩
    let pingBytes := genHeader s.cfg ⟨s.cfg.opcodeMap.ping, n, 0x00, ⟨0, 0, 0⟩⟩
    exec (.ping .up hop csum ⟨0, 0, 0⟩) s =
      if s.cfg.settleTicks = 0 then
        .next { s with
          st := restingSt s.up s.dn, fph := .fwdAck, waitT := 0
          upTx := s.upTx ++ ackBytes, dnTx := s.dnTx ++ pingBytes }
      else
        .next { s with
          st := restingSt s.up s.dn, fph := .fwdAck, waitT := 0
          upTx := s.upTx ++ ackBytes, pendDn := some pingBytes, settle := s.cfg.settleTicks }

/-- 41_header_ops R130: a Ping for this endpoint is answered with an Ack that carries the received hop count and
`OWN_ID`, and is not forwarded. -/
def Obligations.OwnPingIsEchoed : Prop :=
  ∀ (s : State) (hop csum : Byte),
    s.mode = .headers → FramersArmed s → s.cfg.ownId ≠ BoardId.sentinel →
    csumOkHeader s.cfg (encodeHeader ⟨s.cfg.opcodeMap.ping, hop, csum, s.cfg.ownId⟩) = true →
    exec (.ping .up hop csum s.cfg.ownId) s =
      .next { s with
        st := restingSt s.up s.dn, fph := .fwdAck, waitT := 0
        upTx := s.upTx ++ genHeader s.cfg ⟨s.cfg.opcodeMap.ack, hop, 0x00, s.cfg.ownId⟩ }

/-- 41_header_ops R131: a Ping for another device is emitted on the downlink unchanged. -/
def Obligations.OthersPingIsForwarded : Prop :=
  ∀ (s : State) (hop csum : Byte) (target : BoardId),
    s.mode = .headers → FramersArmed s → target ≠ BoardId.sentinel → target ≠ s.cfg.ownId →
    csumOkHeader s.cfg (encodeHeader ⟨s.cfg.opcodeMap.ping, hop, csum, target⟩) = true →
    exec (.ping .up hop csum target) s =
      .next { s with
        st := restingSt s.up s.dn, fph := .fwdAck, waitT := 0
        dnTx := s.dnTx ++ encodeHeader ⟨s.cfg.opcodeMap.ping, hop, csum, target⟩ }

/-- 41_header_ops R132: a Read Header. The owner Acks, starts its settle delay and wait, and awaits the Body;
any other endpoint forwards the Header unchanged and waits for the Ack. -/
def Obligations.ReadHeaderOpensTheExchange : Prop :=
  ∀ (s : State) (hop csum : Byte) (target : BoardId),
    s.mode = .headers → FramersArmed s →
    csumOkHeader s.cfg (encodeHeader ⟨s.cfg.opcodeMap.read, hop, csum, target⟩) = true →
    exec (.read .up hop csum target) s =
      if target = s.cfg.ownId then
        .next { s with
          st := .awaitingBody, xop := .read, xtgt := s.cfg.ownId
          settle := s.cfg.settleTicks, waitT := s.cfg.waitTimeout.getD 0
          up := ⟨some .body, []⟩, dn := ⟨none, []⟩
          err := s.err ||| lostBy (some .body) s.up ||| lostBy none s.dn
          upTx := s.upTx ++ genHeader s.cfg ⟨s.cfg.opcodeMap.ack, hop, 0x00, s.cfg.ownId⟩ }
      else
        .next { s with
          st := .forwarding, fph := .fwdAck, xop := .read, xtgt := target
          waitT := s.cfg.waitTimeout.getD 0
          dnTx := s.dnTx ++ encodeHeader ⟨s.cfg.opcodeMap.read, hop, csum, target⟩ }

/-- 41_header_ops R133: a Write Header, as a Read Header but for `xop`. -/
def Obligations.WriteHeaderOpensTheExchange : Prop :=
  ∀ (s : State) (hop csum : Byte) (target : BoardId),
    s.mode = .headers → FramersArmed s →
    csumOkHeader s.cfg (encodeHeader ⟨s.cfg.opcodeMap.write, hop, csum, target⟩) = true →
    exec (.write .up hop csum target) s =
      if target = s.cfg.ownId then
        .next { s with
          st := .awaitingBody, xop := .write, xtgt := s.cfg.ownId
          settle := s.cfg.settleTicks, waitT := s.cfg.waitTimeout.getD 0
          up := ⟨some .body, []⟩, dn := ⟨none, []⟩
          err := s.err ||| lostBy (some .body) s.up ||| lostBy none s.dn
          upTx := s.upTx ++ genHeader s.cfg ⟨s.cfg.opcodeMap.ack, hop, 0x00, s.cfg.ownId⟩ }
      else
        .next { s with
          st := .forwarding, fph := .fwdAck, xop := .write, xtgt := target
          waitT := s.cfg.waitTimeout.getD 0
          dnTx := s.dnTx ++ encodeHeader ⟨s.cfg.opcodeMap.write, hop, csum, target⟩ }

/-- 41_header_ops R134: an Exec Header has no effect but to return to Idle, whatever its target. -/
def Obligations.ExecHeaderReturnsToIdle : Prop :=
  ∀ (s : State) (hop csum : Byte) (target : BoardId),
    s.mode = .headers → FramersArmed s →
    csumOkHeader s.cfg (encodeHeader ⟨s.cfg.opcodeMap.exec, hop, csum, target⟩) = true →
    exec (.exec .up hop csum target) s =
      .next { s with st := restingSt s.up s.dn, fph := .fwdAck, waitT := 0 }

/-- 41_header_ops R135: an uplink Header of an unrecognized operation raises FramingError and returns to Idle;
nothing is emitted. -/
def Obligations.UnknownOperationIsDropped : Prop :=
  ∀ (s : State) (p : List Byte),
    s.mode = .headers → FramersArmed s → p.length = 15 →
    byteAt p 0 ∉ [s.cfg.opcodeMap.ack, s.cfg.opcodeMap.ping, s.cfg.opcodeMap.read,
      s.cfg.opcodeMap.write, s.cfg.opcodeMap.exec] →
    csumOkHeader s.cfg p = true →
    procPacket .up .header p s =
      .next { s with
        st := restingSt s.up s.dn, fph := .fwdAck, waitT := 0, err := s.err ||| 0x01 }

/-- 43_relay R175: a new uplink Header while a relay waits for the Ack or the reply. With a bad checksum it is
as if not received. Else Abort is raised, the relay returns to Idle and discards a partial reply with Overrun, and
the Header runs as one received in Idle, whatever its operation. That a partial downlink Header in FWD_ACK stays,
without Overrun, as R124 has it at an unchanged armed size, is the model's reading (log 22). -/
def Obligations.NewHeaderPreemptsTheRelay : Prop :=
  ∀ (s : State) (p : List Byte),
    s.mode = .fwdAck ∨ s.mode = .fwdReply → FramersArmed s → p.length = 15 →
    if csumOkHeader s.cfg p then
      procPacket .up .header p s = procPacket .up .header p { s with
        st := restingSt s.up (rearmed (some .header) s.dn), fph := .fwdAck, waitT := 0
        dn := rearmed (some .header) s.dn
        err := s.err ||| 0x80 ||| lostBy (some .header) s.dn }
    else procPacket .up .header p s = .next { s with err := s.err ||| 0x02 }

/-! ## Headers from the downlink -/

/-- 43_relay R176, R178: a downlink Ack outside an exchange is relayed uplink unchanged. -/
def Obligations.DownlinkAckIsRelayedInIdle : Prop :=
  ∀ (s : State) (hop csum : Byte) (target : BoardId),
    s.mode = .headers →
    csumOkHeader s.cfg (encodeHeader ⟨s.cfg.opcodeMap.ack, hop, csum, target⟩) = true →
    exec (.ack .dn hop csum target) s =
      .next { s with
        st := restingSt s.up s.dn
        upTx := s.upTx ++ encodeHeader ⟨s.cfg.opcodeMap.ack, hop, csum, target⟩ }

/-- 43_relay R171, R180: the Ack a relay waits for is relayed uplink unchanged, whatever its target, and the
relay then waits for the Body on the uplink. -/
def Obligations.DownlinkAckAdvancesTheRelay : Prop :=
  ∀ (s : State) (hop csum : Byte) (target : BoardId),
    s.mode = .fwdAck → FramersArmed s →
    csumOkHeader s.cfg (encodeHeader ⟨s.cfg.opcodeMap.ack, hop, csum, target⟩) = true →
    exec (.ack .dn hop csum target) s =
      .next { s with
        fph := .fwdBody, waitT := s.cfg.waitTimeout.getD 0
        up := ⟨some .body, []⟩, dn := ⟨none, []⟩
        err := s.err ||| lostBy (some .body) s.up ||| lostBy none s.dn
        upTx := s.upTx ++ encodeHeader ⟨s.cfg.opcodeMap.ack, hop, csum, target⟩ }

/-- 43_relay R172, R177: a recognized Header other than Ack from the downlink sets UNX and is dropped; a relay
that waits for the Ack goes on waiting. -/
def Obligations.DownlinkRequestIsUnexpected : Prop :=
  ∀ (s : State) (i : Instr) (hop csum : Byte) (target : BoardId),
    i = .ping .dn hop csum target ∨ i = .read .dn hop csum target ∨
      i = .write .dn hop csum target ∨ i = .exec .dn hop csum target →
    csumOkHeader s.cfg (encode s.cfg.opcodeMap s.cfg.kindMap i) = true →
    (s.mode = .headers →
      exec i s = .next { s with st := restingSt s.up s.dn, err := s.err ||| 0x40 }) ∧
    (s.mode = .fwdAck → exec i s = .next { s with err := s.err ||| 0x40 })

/-- 43_relay R171, R176: a downlink Header of an unrecognized operation raises FramingError and returns to Idle,
outside an exchange and in a relay that waits for the Ack. -/
def Obligations.UnknownDownlinkHeaderIsDropped : Prop :=
  ∀ (s : State) (p : List Byte),
    s.mode = .headers ∨ s.mode = .fwdAck → FramersArmed s → p.length = 15 →
    byteAt p 0 ∉ [s.cfg.opcodeMap.ack, s.cfg.opcodeMap.ping, s.cfg.opcodeMap.read,
      s.cfg.opcodeMap.write, s.cfg.opcodeMap.exec] →
    csumOkHeader s.cfg p = true →
    procPacket .dn .header p s =
      .next { s with
        st := restingSt s.up s.dn, fph := .fwdAck, waitT := 0, err := s.err ||| 0x01 }

/-! ## Bodies at the owner

The owner's framers when its Body runs: the uplink's just emptied, the downlink's not armed. -/

/-- 42_body_ops R154: a Memory Body of a Write exchange stores its payload, byte i at address addr+i, leaves
every other byte of memory, returns to Idle and emits nothing. -/
def Obligations.WriteBodyStoresThePayload : Prop :=
  ∀ (s : State) (csum : Byte) (offset : Half) (payload : List Byte),
    s.mode = .ownerBody → s.up = ⟨some .body, []⟩ → s.dn = ⟨none, []⟩ → s.xop = .write →
    payload.length = 512 → s.mem.wf = true →
    csumOkBody s.cfg (encodeBody ⟨s.cfg.kindMap.memory, csum, s.xtgt, offset, payload⟩) = true →
    offset.toNat * 512 + 512 ≤ s.cfg.memBytes →
    ∃ m : Memory,
      exec (.bodyMem .up csum s.xtgt offset payload) s =
        .next { s with
          st := .idle, fph := .fwdAck, waitT := 0
          up := ⟨some .header, []⟩, dn := ⟨some .header, []⟩, mem := m } ∧
      ∀ a, m.read a =
        if offset.toNat * 512 ≤ a ∧ a < offset.toNat * 512 + 512 then
          byteAt payload (a - offset.toNat * 512)
        else s.mem.read a

/-- 42_body_ops R155, R159, R160: a Memory Body of a Read exchange is answered with a Body of the same kind and
offset, `OWN_ID` and the 512 bytes of memory, whatever the request's payload. -/
def Obligations.ReadBodyRepliesWithMemory : Prop :=
  ∀ (s : State) (csum : Byte) (offset : Half) (payload : List Byte),
    s.mode = .ownerBody → s.up = ⟨some .body, []⟩ → s.dn = ⟨none, []⟩ → s.xop = .read →
    csumOkBody s.cfg (encodeBody ⟨s.cfg.kindMap.memory, csum, s.xtgt, offset, payload⟩) = true →
    offset.toNat * 512 + 512 ≤ s.cfg.memBytes →
    exec (.bodyMem .up csum s.xtgt offset payload) s =
      .next { s with
        st := .idle, fph := .fwdAck, waitT := 0
        up := ⟨some .header, []⟩, dn := ⟨some .header, []⟩
        upTx := s.upTx ++ genBody s.cfg ⟨s.cfg.kindMap.memory, 0x00, s.cfg.ownId, offset,
          (List.range 512).map fun i => s.mem.read (offset.toNat * 512 + i)⟩ }

/-- 42_body_ops R156, R157: a Sensors or Code Body at the owner sets RSV and returns to Idle; memory is
unchanged and nothing is emitted, in a Read and in a Write exchange. -/
def Obligations.ReservedKindsAreDropped : Prop :=
  ∀ (s : State) (csum : Byte) (offset : Half) (payload : List Byte),
    s.mode = .ownerBody → s.up = ⟨some .body, []⟩ → s.dn = ⟨none, []⟩ →
    (csumOkBody s.cfg (encodeBody ⟨s.cfg.kindMap.sensors, csum, s.xtgt, offset, payload⟩) = true →
      exec (.bodySens .up csum s.xtgt offset payload) s =
        .next { s with
          st := .idle, fph := .fwdAck, waitT := 0, err := s.err ||| 0x10
          up := ⟨some .header, []⟩, dn := ⟨some .header, []⟩ }) ∧
    (csumOkBody s.cfg (encodeBody ⟨s.cfg.kindMap.code, csum, s.xtgt, offset, payload⟩) = true →
      exec (.bodyCode .up csum s.xtgt offset payload) s =
        .next { s with
          st := .idle, fph := .fwdAck, waitT := 0, err := s.err ||| 0x10
          up := ⟨some .header, []⟩, dn := ⟨some .header, []⟩ })

/-- 42_body_ops R153, 60_exceptions R211: a Body of any recognized kind whose target is not the exchange's sets
TGT, and no other bit, and returns to Idle, wherever its offset points. -/
def Obligations.WrongTargetBodyIsDropped : Prop :=
  ∀ (s : State) (i : Instr) (csum : Byte) (target : BoardId) (offset : Half) (payload : List Byte),
    i = .bodyMem .up csum target offset payload ∨ i = .bodySens .up csum target offset payload ∨
      i = .bodyCode .up csum target offset payload →
    s.mode = .ownerBody → s.up = ⟨some .body, []⟩ → s.dn = ⟨none, []⟩ → target ≠ s.xtgt →
    csumOkBody s.cfg (encode s.cfg.opcodeMap s.cfg.kindMap i) = true →
    exec i s =
      .next { s with
        st := .idle, fph := .fwdAck, waitT := 0, err := s.err ||| 0x08
        up := ⟨some .header, []⟩, dn := ⟨some .header, []⟩ }

/-- 42_body_ops R158: a Memory Body whose block does not lie inside device memory sets ADDR and returns to Idle;
memory is unchanged and nothing is emitted, in a Read and in a Write exchange. -/
def Obligations.OutOfRangeBodyIsDropped : Prop :=
  ∀ (s : State) (csum : Byte) (offset : Half) (payload : List Byte),
    s.mode = .ownerBody → s.up = ⟨some .body, []⟩ → s.dn = ⟨none, []⟩ →
    s.cfg.memBytes < offset.toNat * 512 + 512 →
    csumOkBody s.cfg (encodeBody ⟨s.cfg.kindMap.memory, csum, s.xtgt, offset, payload⟩) = true →
    exec (.bodyMem .up csum s.xtgt offset payload) s =
      .next { s with
        st := .idle, fph := .fwdAck, waitT := 0, err := s.err ||| 0x04
        up := ⟨some .header, []⟩, dn := ⟨some .header, []⟩ }

/-- 42_body_ops R152, 60_exceptions R211: a Body of an unrecognized kind at the owner sets FRM, and no other
bit, and returns to Idle, whatever its target and offset. -/
def Obligations.UnknownKindIsDroppedAtTheOwner : Prop :=
  ∀ (s : State) (p : List Byte),
    s.mode = .ownerBody → s.up = ⟨some .body, []⟩ → s.dn = ⟨none, []⟩ → p.length = 528 →
    byteAt p 0 ∉ [s.cfg.kindMap.memory, s.cfg.kindMap.sensors, s.cfg.kindMap.code] →
    csumOkBody s.cfg p = true →
    procPacket .up .body p s =
      .next { s with
        st := .idle, fph := .fwdAck, waitT := 0, err := s.err ||| 0x01
        up := ⟨some .header, []⟩, dn := ⟨some .header, []⟩ }

/-- The source's Write/Read consistency (95_test_vectors S5; 42_body_ops R154, R155): the payload of a Write
Body is what a later Read Body of the same offset is answered with, while memory is unchanged in between. -/
def Obligations.WriteThenReadReturnsThePayload : Prop :=
  ∀ (s t u : State) (csum csum' : Byte) (offset : Half) (payload payload' : List Byte),
    s.mode = .ownerBody → s.xop = .write → s.mem.wf = true → payload.length = 512 →
    csumOkBody s.cfg (encodeBody ⟨s.cfg.kindMap.memory, csum, s.xtgt, offset, payload⟩) = true →
    offset.toNat * 512 + 512 ≤ s.cfg.memBytes →
    exec (.bodyMem .up csum s.xtgt offset payload) s = .next t →
    u.cfg = s.cfg → u.mem = t.mem → u.mode = .ownerBody → u.xop = .read →
    csumOkBody u.cfg (encodeBody ⟨u.cfg.kindMap.memory, csum', u.xtgt, offset, payload'⟩) = true →
    ∃ v, exec (.bodyMem .up csum' u.xtgt offset payload') u = .next v ∧
      v.upTx = u.upTx ++ genBody u.cfg ⟨u.cfg.kindMap.memory, 0x00, u.cfg.ownId, offset, payload⟩

/-! ## Bodies at a relay -/

/-- 43_relay R173, R180: in FWD_BODY a relay forwards the uplink Body downlink byte for byte, whatever its kind,
recognized or not, its target and its offset. A Write exchange then ends; a Read exchange waits for the reply.
With a bad checksum it goes on waiting. -/
def Obligations.RelayForwardsTheBody : Prop :=
  ∀ (s : State) (p : List Byte),
    s.mode = .fwdBody → s.up = ⟨some .body, []⟩ → s.dn = ⟨none, []⟩ → p.length = 528 →
    procPacket .up .body p s =
      if csumOkBody s.cfg p then
        match s.xop with
        | .write =>
          .next { s with
            st := .idle, fph := .fwdAck, waitT := 0
            up := ⟨some .header, []⟩, dn := ⟨some .header, []⟩, dnTx := s.dnTx ++ p }
        | .read =>
          .next { s with
            fph := .fwdReply, waitT := s.cfg.waitTimeout.getD 0
            up := ⟨some .header, []⟩, dn := ⟨some .body, []⟩, dnTx := s.dnTx ++ p }
      else .next { s with err := s.err ||| 0x02 }

/-- 43_relay R174, R180: in FWD_REPLY a relay emits the downlink Body uplink byte for byte, whatever it holds,
and returns to Idle. With a bad checksum it goes on waiting. -/
def Obligations.RelayReturnsTheReply : Prop :=
  ∀ (s : State) (p : List Byte),
    s.mode = .fwdReply → s.up.need = some .header → s.dn = ⟨some .body, []⟩ → p.length = 528 →
    procPacket .dn .body p s =
      if csumOkBody s.cfg p then
        .next { s with
          st := restingSt s.up ⟨some .header, []⟩, fph := .fwdAck, waitT := 0
          dn := ⟨some .header, []⟩, upTx := s.upTx ++ p }
      else .next { s with err := s.err ||| 0x02 }

/-- 43_relay R173, R174: a Body instruction of any of the three kinds passes a relay unchanged, downlink in
FWD_BODY and uplink in FWD_REPLY, and what the relay does next. -/
def Obligations.BodyInstructionsPassARelay : Prop :=
  ∀ (s : State) (i : Instr),
    i.format = .body → i.WellFormed →
    csumOkBody s.cfg (encode s.cfg.opcodeMap s.cfg.kindMap i) = true →
    (s.mode = .fwdBody → i.rx = .up → s.up = ⟨some .body, []⟩ → s.dn = ⟨none, []⟩ →
      (s.xop = .write →
        exec i s = .next { s with
          st := .idle, fph := .fwdAck, waitT := 0
          up := ⟨some .header, []⟩, dn := ⟨some .header, []⟩
          dnTx := s.dnTx ++ encode s.cfg.opcodeMap s.cfg.kindMap i }) ∧
      (s.xop = .read →
        exec i s = .next { s with
          fph := .fwdReply, waitT := s.cfg.waitTimeout.getD 0
          up := ⟨some .header, []⟩, dn := ⟨some .body, []⟩
          dnTx := s.dnTx ++ encode s.cfg.opcodeMap s.cfg.kindMap i })) ∧
    (s.mode = .fwdReply → i.rx = .dn → s.up.need = some .header → s.dn = ⟨some .body, []⟩ →
      exec i s = .next { s with
        st := restingSt s.up ⟨some .header, []⟩, fph := .fwdAck, waitT := 0
        dn := ⟨some .header, []⟩
        upTx := s.upTx ++ encode s.cfg.opcodeMap s.cfg.kindMap i })

/-- 43_relay R178: every packet a relay emits through R131, R171, R173, R174 and R176 is byte-identical to the
packet received: each of the five, from the received bytes. -/
def Obligations.RelayedPacketsAreByteIdentical : Prop :=
  ∀ (s : State) (p : List Byte), s.cfg.opcodeMap.Injective →
    (s.mode = .headers → p.length = 15 → csumOkHeader s.cfg p = true →
      byteAt p 0 = s.cfg.opcodeMap.ping → idAt p 3 ≠ BoardId.sentinel → idAt p 3 ≠ s.cfg.ownId →
      ∃ t, procPacket .up .header p s = .next t ∧ t.dnTx = s.dnTx ++ p ∧ t.upTx = s.upTx) ∧
    (s.mode = .headers ∨ s.mode = .fwdAck → p.length = 15 → csumOkHeader s.cfg p = true →
      byteAt p 0 = s.cfg.opcodeMap.ack →
      ∃ t, procPacket .dn .header p s = .next t ∧ t.upTx = s.upTx ++ p ∧ t.dnTx = s.dnTx) ∧
    (s.mode = .fwdBody → p.length = 528 → csumOkBody s.cfg p = true →
      ∃ t, procPacket .up .body p s = .next t ∧ t.dnTx = s.dnTx ++ p ∧ t.upTx = s.upTx) ∧
    (s.mode = .fwdReply → p.length = 528 → csumOkBody s.cfg p = true →
      ∃ t, procPacket .dn .body p s = .next t ∧ t.upTx = s.upTx ++ p ∧ t.dnTx = s.dnTx)

/-! ## Errors of every packet -/

/-- 60_exceptions R202, R204, R211, R213: a packet that fails its checksum, on either link and in every state
that takes one of its size, sets CSUM and no other bit and is otherwise as if not received; outside an exchange
`st` says whether bytes are still held (41_header_ops R127, log 20). -/
def Obligations.CorruptPacketIsAsIfNotReceived : Prop :=
  ∀ (s : State) (l : Link) (f : Format) (p : List Byte),
    armed s.mode l = some f → p.length = f.size →
    (match f with
      | .header => csumOkHeader s.cfg p
      | .body => csumOkBody s.cfg p) = false →
    procPacket l f p s =
      .next { s with
        st := if s.mode = .headers then restingSt s.up s.dn else s.st
        err := s.err ||| 0x02 }

/-! ## Runs of one endpoint -/

/-- 43_relay R176, R179: an Ack of 15 bytes that arrives on the downlink of an endpoint in Idle leaves on its
uplink unchanged, and the endpoint is as before. -/
def Obligations.AckPassesAnIdleEndpoint : Prop :=
  ∀ (s : State) (p : List Byte),
    EndpointInv s → s.st = .idle → s.settle = 0 → p.length = 15 →
    byteAt p 0 = s.cfg.opcodeMap.ack → csumOkHeader s.cfg p = true →
    Host.Core.run Sys2Proof.core 15 { s with inputs := p.map .rxDn } =
      .next { s with inputs := [], upTx := s.upTx ++ p }

/-- 41_header_ops R129, R136, R139: a sentinel Ping of 15 bytes that arrives on the uplink of an endpoint in Idle
is claimed, and after `SETTLE_TICKS` ticks the Ping for the next device has left on the downlink and the endpoint
is in Idle again. -/
def Obligations.SentinelPingIsClaimedAndPassedOn : Prop :=
  ∀ (s : State) (p : List Byte),
    EndpointInv s → s.st = .idle → s.settle = 0 → p.length = 15 →
    byteAt p 0 = s.cfg.opcodeMap.ping → idAt p 3 = BoardId.sentinel → csumOkHeader s.cfg p = true →
    Host.Core.run Sys2Proof.core (15 + s.cfg.settleTicks)
        { s with inputs := p.map .rxUp ++ List.replicate s.cfg.settleTicks .tick } =
      .next { s with
        inputs := []
        upTx := s.upTx ++ genHeader s.cfg ⟨s.cfg.opcodeMap.ack, byteAt p 1 + 1, 0x00, s.cfg.ownId⟩
        dnTx := s.dnTx ++ genHeader s.cfg ⟨s.cfg.opcodeMap.ping, byteAt p 1 + 1, 0x00, ⟨0, 0, 0⟩⟩ }

/-! ## The chain -/

/-- 20_memory R58: no link of a chain delivers more bytes than were sent on it: with every endpoint at power-on
none does, every move from a chain where none does leaves one where none does, and so none does after any run from
power-on, whatever the configurations and the moves. -/
def Obligations.ChainDeliversOnlyWhatWasSent : Prop :=
  (∀ cfgs : List Config, (Chain.powerOn cfgs).DeliveredWithinSent) ∧
  (∀ (c d : Chain) (m : ChainMove), c.DeliveredWithinSent → c.move m = .next d → d.DeliveredWithinSent) ∧
  (∀ (cfgs : List Config) (ms : List ChainMove) (c : Chain),
    Chain.run ms (Chain.powerOn cfgs) = .next c → c.DeliveredWithinSent)

/-- 20_memory R58, R59: a delivery gives its receiver the next byte of the stream that feeds it, counts it, and
leaves all else of the chain alone. The first node's uplink is fed by the host, node j+1's by the downlink stream
of node j; node k's downlink is fed by the uplink stream of node k+1; the host by that of the first node. -/
def Obligations.ChainDeliversTheNextByte : Prop :=
  (∀ (c : Chain) (n : Node) (b : Byte) (ep : State),
    c.nodes[0]? = some n → c.hostTx[n.upSeen]? = some b → handle (.rxUp b) n.ep = .next ep →
    c.move (.deliverUp 0) =
      .next { c with nodes := c.nodes.set 0 ⟨ep, n.upSeen + 1, n.dnSeen⟩ }) ∧
  (∀ (c : Chain) (j : Nat) (m n : Node) (b : Byte) (ep : State),
    c.nodes[j]? = some m → c.nodes[j + 1]? = some n →
    m.ep.dnTx[n.upSeen]? = some b → handle (.rxUp b) n.ep = .next ep →
    c.move (.deliverUp (j + 1)) =
      .next { c with nodes := c.nodes.set (j + 1) ⟨ep, n.upSeen + 1, n.dnSeen⟩ }) ∧
  (∀ (c : Chain) (k : Nat) (n m : Node) (b : Byte) (ep : State),
    c.nodes[k]? = some n → c.nodes[k + 1]? = some m →
    m.ep.upTx[n.dnSeen]? = some b → handle (.rxDn b) n.ep = .next ep →
    c.move (.deliverDn k) =
      .next { c with nodes := c.nodes.set k ⟨ep, n.upSeen, n.dnSeen + 1⟩ }) ∧
  (∀ (c : Chain) (n : Node) (b : Byte),
    c.nodes[0]? = some n → n.ep.upTx[c.hostSeen]? = some b →
    ∃ d, c.move .hostRecv = .next d ∧ d = { c with hostSeen := c.hostSeen + 1 } ∧
      d.hostReceived = c.hostReceived ++ [b])

/-- 20_memory R60: nothing is ever delivered to the downlink of the last endpoint. -/
def Obligations.LastDownlinkReceivesNothing : Prop :=
  ∀ c : Chain, c.move (.deliverDn (c.nodes.length - 1)) = .next c

/-- Every move of a chain whose endpoints all meet the invariant is taken without a stop and keeps the invariant
at every endpoint, and the BoardIDs stay distinct (60_exceptions R214, R219; 70_reset R234). -/
def Obligations.ChainMovesKeepTheInvariant : Prop :=
  ∀ (c : Chain) (m : ChainMove),
    (∀ n ∈ c.nodes, EndpointInv n.ep) → c.DistinctIds →
    ∃ d, c.move m = .next d ∧ (∀ n ∈ d.nodes, EndpointInv n.ep) ∧ d.DistinctIds
end

