-- ==== Sys2Proof/Laws/Codec.lean ====
section
/-! SUPPORT. Lengths and field laws of the packet codec. -/

namespace Sys2Proof

@[simp] theorem le32_length (v : Word) : (le32 v).length = 4 := rfl
@[simp] theorem le16_length (v : Half) : (le16 v).length = 2 := rfl
@[simp] theorem encodeId_length (b : BoardId) : (encodeId b).length = 12 := rfl
@[simp] theorem encodeHeader_length (h : HeaderRec) : (encodeHeader h).length = 15 := rfl

@[simp] theorem encodeBody_length (b : BodyRec) :
    (encodeBody b).length = 16 + b.payload.length := by
  simp [encodeBody]; omega

/-- A u32 field's bytes make the word they came from (30_encoding R73). -/
theorem u32_of_bytes (v : Word) :
    (v.extractLsb' 0 8).setWidth 32 ||| (v.extractLsb' 8 8).setWidth 32 <<< 8 |||
      (v.extractLsb' 16 8).setWidth 32 <<< 16 ||| (v.extractLsb' 24 8).setWidth 32 <<< 24 = v := by
  ext i hi
  simp only [BitVec.getElem_or, BitVec.getElem_shiftLeft, BitVec.getElem_setWidth,
    BitVec.getLsbD_extractLsb']
  rcases Nat.lt_or_ge i 8 with h | h <;> rcases Nat.lt_or_ge i 16 with h' | h' <;>
    rcases Nat.lt_or_ge i 24 with h'' | h'' <;>
    first
      | omega
      | (simp [*]; try grind)

/-- Every Header is well formed. -/
theorem wellFormed_of_header {i : Instr} (h : i.format = .header) : i.WellFormed := by
  cases i <;> first | rfl | cases h

@[simp] theorem wellFormed_bodyMem (rx : Link) (csum : Byte) (target : BoardId) (offset : Half)
    (payload : List Byte) :
    (Instr.bodyMem rx csum target offset payload).WellFormed ↔ payload.length = 512 := by
  simp [Instr.WellFormed, Instr.wellFormed]

@[simp] theorem wellFormed_bodySens (rx : Link) (csum : Byte) (target : BoardId) (offset : Half)
    (payload : List Byte) :
    (Instr.bodySens rx csum target offset payload).WellFormed ↔ payload.length = 512 := by
  simp [Instr.WellFormed, Instr.wellFormed]

@[simp] theorem wellFormed_bodyCode (rx : Link) (csum : Byte) (target : BoardId) (offset : Half)
    (payload : List Byte) :
    (Instr.bodyCode rx csum target offset payload).WellFormed ↔ payload.length = 512 := by
  simp [Instr.WellFormed, Instr.wellFormed]

end Sys2Proof
end

