-- ==== Sys2Proof/Laws/Memory.lean ====
section
/-! SUPPORT. The laws of device memory: every operation keeps the canonical form, and a byte reads as it was
last written. -/

namespace Sys2Proof.Machine

theorem Memory.wfFrom_mono {m : Memory} {lo hi : Nat} (h : lo ≤ hi) (w : m.wfFrom hi = true) :
    m.wfFrom lo = true := by
  cases m with
  | nil => rfl
  | cons c rest =>
    obtain ⟨a, v⟩ := c
    simp only [Memory.wfFrom, Bool.and_eq_true, decide_eq_true_eq] at w ⊢
    exact ⟨⟨h.trans w.1.1, w.1.2⟩, w.2⟩

/-- Below the lowest listed address a canonical memory reads as 0x00. -/
theorem Memory.read_below {m : Memory} {lo a : Nat} (w : m.wfFrom lo = true) (h : a < lo) :
    m.read a = 0x00 := by
  induction m generalizing lo with
  | nil => rfl
  | cons c rest ih =>
    obtain ⟨b, v⟩ := c
    simp only [Memory.wfFrom, Bool.and_eq_true, decide_eq_true_eq] at w
    have : a ≠ b := by omega
    simp only [Memory.read, if_neg this]
    exact ih w.2 (by omega)

theorem Memory.wfFrom_cell_append {a : Nat} {v : Byte} {lo : Nat} {rest : Memory}
    (hl : lo ≤ a) (w : rest.wfFrom (a + 1) = true) :
    (Memory.cell a v ++ rest : Memory).wfFrom lo = true := by
  unfold Memory.cell
  split
  · simpa using Memory.wfFrom_mono (by omega) w
  · rename_i hv
    simpa [Memory.wfFrom, hl, w] using hv

/-- Writing a byte keeps the canonical form, above any bound the address is above. -/
theorem Memory.wfFrom_write {m : Memory} {a lo : Nat} {v : Byte} (hl : lo ≤ a)
    (w : m.wfFrom lo = true) : (m.write a v).wfFrom lo = true := by
  induction m generalizing lo with
  | nil => simpa [Memory.write] using Memory.wfFrom_cell_append (v := v) (rest := []) hl rfl
  | cons c rest ih =>
    obtain ⟨b, x⟩ := c
    simp only [Memory.write]
    have w' := w
    simp only [Memory.wfFrom, Bool.and_eq_true, decide_eq_true_eq] at w'
    split
    · refine Memory.wfFrom_cell_append hl ?_
      simp only [Memory.wfFrom, Bool.and_eq_true, decide_eq_true_eq]
      exact ⟨⟨by omega, w'.1.2⟩, w'.2⟩
    · split
      · rename_i h
        exact Memory.wfFrom_cell_append hl (h ▸ w'.2)
      · simp only [Memory.wfFrom, Bool.and_eq_true, decide_eq_true_eq]
        exact ⟨w'.1, ih (by omega) w'.2⟩

/-- Writing a byte keeps the canonical form. -/
theorem Memory.wf_write {m : Memory} (a : Nat) (v : Byte) (w : m.wf = true) :
    (m.write a v).wf = true :=
  Memory.wfFrom_write (Nat.zero_le a) w

/-- `MemWrite` keeps the canonical form. -/
theorem wf_memWrite {m : Memory} (addr : Nat) (v : List Byte) (w : m.wf = true) :
    Memory.wf (memWrite m addr v) = true := by
  induction v generalizing m addr with
  | nil => exact w
  | cons b rest ih => exact ih (addr + 1) (Memory.wf_write addr b w)

theorem Memory.read_cell_append {a b : Nat} {v : Byte} {rest : Memory}
    (w : rest.wfFrom (a + 1) = true) :
    (Memory.cell a v ++ rest : Memory).read b = if b = a then v else rest.read b := by
  unfold Memory.cell
  split
  · rename_i hv
    split
    · rename_i h
      simpa [hv] using Memory.read_below w (by omega)
    · simp
  · simp [Memory.read]

/-- A byte reads as it was last written, and every other byte as before. -/
theorem Memory.read_write {m : Memory} {lo : Nat} (w : m.wfFrom lo = true) (a b : Nat) (v : Byte) :
    (m.write a v).read b = if b = a then v else m.read b := by
  induction m generalizing lo with
  | nil => simpa [Memory.write, Memory.read] using Memory.read_cell_append (a := a) (v := v) (b := b) (rest := []) rfl
  | cons c rest ih =>
    obtain ⟨k, x⟩ := c
    have w' := w
    simp only [Memory.wfFrom, Bool.and_eq_true, decide_eq_true_eq] at w'
    simp only [Memory.write]
    split
    · refine Memory.read_cell_append ?_
      simp only [Memory.wfFrom, Bool.and_eq_true, decide_eq_true_eq]
      exact ⟨⟨by omega, w'.1.2⟩, w'.2⟩
    · split
      · rename_i h
        subst h
        rw [Memory.read_cell_append w'.2]
        simp only [Memory.read]
        split <;> rfl
      · simp only [Memory.read, ih w'.2]
        split
        · rename_i h1
          split
          · omega
          · rfl
        · rfl

/-- Writing below `n` keeps every listed address below `n`. -/
theorem Memory.within_write {m : Memory} {n a : Nat} {v : Byte} (ha : a < n)
    (w : m.within n = true) : (m.write a v).within n = true := by
  have hc : (Memory.cell a v).within n = true := by
    unfold Memory.cell Memory.within
    split <;> simp [ha]
  induction m with
  | nil => exact hc
  | cons c rest ih =>
    obtain ⟨k, x⟩ := c
    simp only [Memory.within, List.all_cons, Bool.and_eq_true] at w hc ih ⊢
    simp only [Memory.write]
    split
    · simp [List.all_append, hc, w]
    · split
      · simp [List.all_append, hc, w]
      · simp only [List.all_cons, Bool.and_eq_true]
        exact ⟨w.1, ih w.2⟩

/-- `MemWrite` of bytes below `n` keeps every listed address below `n`. -/
theorem within_memWrite {m : Memory} {n addr : Nat} {v : List Byte} (h : addr + v.length ≤ n)
    (w : Memory.within m n = true) : Memory.within (memWrite m addr v) n = true := by
  induction v generalizing m addr with
  | nil => exact w
  | cons b rest ih =>
    simp only [List.length_cons] at h
    exact ih (by omega) (Memory.within_write (by omega) w)

/-- The memory right after reset has the canonical form. -/
theorem reset_mem_wf : Memory.wf State.reset.mem = true := rfl

@[simp] theorem memRead_length (m : Memory) (addr n : Nat) : (memRead m addr n).length = n := by
  simp [memRead]

end Sys2Proof.Machine
end

