-- ==== Sys2Proof/Laws/State.lean ====
section
/-! SUPPORT. What each named update of the state leaves in each field: one lemma per field per update. -/

namespace Sys2Proof.Machine

@[simp] theorem raise_cfg (e : EndpointError) (s : State) : (raise e s).cfg = s.cfg := rfl
@[simp] theorem raise_st (e : EndpointError) (s : State) : (raise e s).st = s.st := rfl
@[simp] theorem raise_fph (e : EndpointError) (s : State) : (raise e s).fph = s.fph := rfl
@[simp] theorem raise_xop (e : EndpointError) (s : State) : (raise e s).xop = s.xop := rfl
@[simp] theorem raise_xtgt (e : EndpointError) (s : State) : (raise e s).xtgt = s.xtgt := rfl
@[simp] theorem raise_up (e : EndpointError) (s : State) : (raise e s).up = s.up := rfl
@[simp] theorem raise_dn (e : EndpointError) (s : State) : (raise e s).dn = s.dn := rfl
@[simp] theorem raise_settle (e : EndpointError) (s : State) : (raise e s).settle = s.settle := rfl
@[simp] theorem raise_pendDn (e : EndpointError) (s : State) : (raise e s).pendDn = s.pendDn := rfl
@[simp] theorem raise_waitT (e : EndpointError) (s : State) : (raise e s).waitT = s.waitT := rfl
@[simp] theorem raise_err (e : EndpointError) (s : State) : (raise e s).err = s.err ||| errorBit e := rfl
@[simp] theorem raise_mem (e : EndpointError) (s : State) : (raise e s).mem = s.mem := rfl
@[simp] theorem raise_upTx (e : EndpointError) (s : State) : (raise e s).upTx = s.upTx := rfl
@[simp] theorem raise_dnTx (e : EndpointError) (s : State) : (raise e s).dnTx = s.dnTx := rfl
@[simp] theorem raise_inputs (e : EndpointError) (s : State) : (raise e s).inputs = s.inputs := rfl

@[simp] theorem emit_cfg (l : Link) (p : List Byte) (s : State) : (emit l p s).cfg = s.cfg := rfl
@[simp] theorem emit_st (l : Link) (p : List Byte) (s : State) : (emit l p s).st = s.st := rfl
@[simp] theorem emit_fph (l : Link) (p : List Byte) (s : State) : (emit l p s).fph = s.fph := rfl
@[simp] theorem emit_xop (l : Link) (p : List Byte) (s : State) : (emit l p s).xop = s.xop := rfl
@[simp] theorem emit_xtgt (l : Link) (p : List Byte) (s : State) : (emit l p s).xtgt = s.xtgt := rfl
@[simp] theorem emit_up (l : Link) (p : List Byte) (s : State) : (emit l p s).up = s.up := rfl
@[simp] theorem emit_dn (l : Link) (p : List Byte) (s : State) : (emit l p s).dn = s.dn := rfl
@[simp] theorem emit_settle (l : Link) (p : List Byte) (s : State) : (emit l p s).settle = s.settle := rfl
@[simp] theorem emit_pendDn (l : Link) (p : List Byte) (s : State) : (emit l p s).pendDn = s.pendDn := rfl
@[simp] theorem emit_waitT (l : Link) (p : List Byte) (s : State) : (emit l p s).waitT = s.waitT := rfl
@[simp] theorem emit_err (l : Link) (p : List Byte) (s : State) : (emit l p s).err = s.err := rfl
@[simp] theorem emit_mem (l : Link) (p : List Byte) (s : State) : (emit l p s).mem = s.mem := rfl
@[simp] theorem emit_inputs (l : Link) (p : List Byte) (s : State) : (emit l p s).inputs = s.inputs := rfl

@[simp] theorem emit_up_upTx (p : List Byte) (s : State) : (emit .up p s).upTx = s.upTx ++ p := rfl
@[simp] theorem emit_up_dnTx (p : List Byte) (s : State) : (emit .up p s).dnTx = s.dnTx := rfl
@[simp] theorem emit_dn_upTx (p : List Byte) (s : State) : (emit .dn p s).upTx = s.upTx := rfl
@[simp] theorem emit_dn_dnTx (p : List Byte) (s : State) : (emit .dn p s).dnTx = s.dnTx ++ p := rfl

@[simp] theorem setFramer_cfg (l : Link) (f : Framer) (s : State) : (s.setFramer l f).cfg = s.cfg := rfl
@[simp] theorem setFramer_st (l : Link) (f : Framer) (s : State) : (s.setFramer l f).st = s.st := rfl
@[simp] theorem setFramer_fph (l : Link) (f : Framer) (s : State) : (s.setFramer l f).fph = s.fph := rfl
@[simp] theorem setFramer_xop (l : Link) (f : Framer) (s : State) : (s.setFramer l f).xop = s.xop := rfl
@[simp] theorem setFramer_xtgt (l : Link) (f : Framer) (s : State) : (s.setFramer l f).xtgt = s.xtgt := rfl
@[simp] theorem setFramer_settle (l : Link) (f : Framer) (s : State) : (s.setFramer l f).settle = s.settle := rfl
@[simp] theorem setFramer_pendDn (l : Link) (f : Framer) (s : State) : (s.setFramer l f).pendDn = s.pendDn := rfl
@[simp] theorem setFramer_waitT (l : Link) (f : Framer) (s : State) : (s.setFramer l f).waitT = s.waitT := rfl
@[simp] theorem setFramer_err (l : Link) (f : Framer) (s : State) : (s.setFramer l f).err = s.err := rfl
@[simp] theorem setFramer_mem (l : Link) (f : Framer) (s : State) : (s.setFramer l f).mem = s.mem := rfl
@[simp] theorem setFramer_upTx (l : Link) (f : Framer) (s : State) : (s.setFramer l f).upTx = s.upTx := rfl
@[simp] theorem setFramer_dnTx (l : Link) (f : Framer) (s : State) : (s.setFramer l f).dnTx = s.dnTx := rfl
@[simp] theorem setFramer_inputs (l : Link) (f : Framer) (s : State) : (s.setFramer l f).inputs = s.inputs := rfl

@[simp] theorem setFramer_up_up (f : Framer) (s : State) : (s.setFramer .up f).up = f := rfl
@[simp] theorem setFramer_up_dn (f : Framer) (s : State) : (s.setFramer .up f).dn = s.dn := rfl
@[simp] theorem setFramer_dn_up (f : Framer) (s : State) : (s.setFramer .dn f).up = s.up := rfl
@[simp] theorem setFramer_dn_dn (f : Framer) (s : State) : (s.setFramer .dn f).dn = f := rfl
@[simp] theorem framer_up (s : State) : s.framer .up = s.up := rfl
@[simp] theorem framer_dn (s : State) : s.framer .dn = s.dn := rfl
@[simp] theorem framer_raise (l : Link) (e : EndpointError) (s : State) :
    (raise e s).framer l = s.framer l := rfl
@[simp] theorem framer_emit (l m : Link) (p : List Byte) (s : State) :
    (emit m p s).framer l = s.framer l := rfl

@[simp] theorem mode_raise (e : EndpointError) (s : State) : (raise e s).mode = s.mode := rfl
@[simp] theorem mode_emit (l : Link) (p : List Byte) (s : State) : (emit l p s).mode = s.mode := rfl
@[simp] theorem mode_setFramer (l : Link) (f : Framer) (s : State) :
    (s.setFramer l f).mode = s.mode := rfl

end Sys2Proof.Machine
end

