-- ==== Sys2Proof/Laws/Ops.lean ====
section
/-! SUPPORT. One lemma per shared operation that says once everything it can do. -/

namespace Sys2Proof.Machine

theorem rearmLink_up (n : Option Format) (s : State) :
    rearmLink .up n s = { s with up := rearmed n s.up, err := s.err ||| lostBy n s.up } := by
  unfold rearmLink rearmed lostBy
  by_cases h : s.up.need = n
  · simp [h]
  · by_cases hc : s.up.cnt > 0 <;> simp [h, hc, State.setFramer, raise, errorBit, errorCode]

theorem rearmLink_dn (n : Option Format) (s : State) :
    rearmLink .dn n s = { s with dn := rearmed n s.dn, err := s.err ||| lostBy n s.dn } := by
  unfold rearmLink rearmed lostBy
  by_cases h : s.dn.need = n
  · simp [h]
  · by_cases hc : s.dn.cnt > 0 <;> simp [h, hc, State.setFramer, raise, errorBit, errorCode]

/-- All that `rearm()` does (41_header_ops R124). -/
theorem rearm_eq (s : State) :
    rearm s = { s with
      up := rearmed (armed s.mode .up) s.up
      dn := rearmed (armed s.mode .dn) s.dn
      err := s.err ||| lostBy (armed s.mode .up) s.up ||| lostBy (armed s.mode .dn) s.dn } := by
  unfold rearm
  rw [rearmLink_up, rearmLink_dn]

@[simp] theorem rearmed_self (f : Framer) : rearmed f.need f = f := by simp [rearmed]
@[simp] theorem lostBy_self (f : Framer) : lostBy f.need f = 0#8 := by simp [lostBy]

theorem rearmed_of_need {n : Option Format} {f : Framer} (h : f.need = n) : rearmed n f = f := by
  simp [rearmed, h]

theorem lostBy_of_need {n : Option Format} {f : Framer} (h : f.need = n) : lostBy n f = 0#8 := by
  simp [lostBy, h]

theorem rearmed_need (n : Option Format) (f : Framer) : (rearmed n f).need = n := by
  unfold rearmed; split <;> simp_all

/-- Re-arming an armed endpoint changes nothing. -/
theorem rearm_of_armed {s : State} (h : FramersArmed s) : rearm s = s := by
  rw [rearm_eq, rearmed_of_need h.1, rearmed_of_need h.2, lostBy_of_need h.1, lostBy_of_need h.2]
  simp

/-- `refresh_idle()` in the states that receive Headers (41_header_ops R126). -/
theorem refreshIdle_of_headers {s : State} (h : s.mode = .headers) :
    refreshIdle s = { s with st := restingSt s.up s.dn } := by
  simp [refreshIdle, h, restingSt]

/-- `refresh_idle()` elsewhere. -/
theorem refreshIdle_of_not_headers {s : State} (h : s.mode ≠ .headers) : refreshIdle s = s := by
  unfold refreshIdle; split <;> simp_all

/-- All that `to_idle()` does (41_header_ops R126). -/
theorem toIdle_eq (s : State) :
    toIdle s = { s with
      st := restingSt (rearmed (some .header) s.up) (rearmed (some .header) s.dn)
      fph := .fwdAck
      waitT := 0
      up := rearmed (some .header) s.up
      dn := rearmed (some .header) s.dn
      err := s.err ||| lostBy (some .header) s.up ||| lostBy (some .header) s.dn } := by
  unfold toIdle
  rw [rearm_eq, refreshIdle_of_headers rfl]
  rfl

/-- `to_idle()` where both framers are armed for a Header. -/
theorem toIdle_of_headers {s : State} (hu : s.up.need = some .header) (hd : s.dn.need = some .header) :
    toIdle s = { s with st := restingSt s.up s.dn, fph := .fwdAck, waitT := 0 } := by
  rw [toIdle_eq, rearmed_of_need hu, rearmed_of_need hd, lostBy_of_need hu, lostBy_of_need hd]
  simp

/-- All that entering a relay phase does (43_relay R171, R173). -/
theorem enterPhase_eq (f : Fph) (s : State) :
    enterPhase f s = { s with
      fph := f
      waitT := waitLoad s.cfg
      up := rearmed (armed (rxMode s.st f) .up) s.up
      dn := rearmed (armed (rxMode s.st f) .dn) s.dn
      err := s.err ||| lostBy (armed (rxMode s.st f) .up) s.up
        ||| lostBy (armed (rxMode s.st f) .dn) s.dn } := by
  unfold enterPhase
  rw [rearm_eq]
  rfl

/-- An outcome of an uplink Header: one of four, by the mode and the checksum (41_header_ops R120). -/
theorem recvUpHeader_cases {p : List Byte} {act : State → State} {s : State}
    {o : Host.Outcome State Fault Refusal} (h : recvUpHeader p act s = o) :
    (s.mode = .headers ∧ o = .next (procUpHeader p act s)) ∨
    ((s.mode = .fwdAck ∨ s.mode = .fwdReply) ∧ o = .next (preempt p act s)) ∨
    ((s.mode = .ownerBody ∨ s.mode = .fwdBody) ∧ o = .fault (.undispatched .up .header)) := by
  unfold recvUpHeader at h
  split at h <;> simp_all

/-- An outcome of a downlink Header, by the mode (41_header_ops R120). -/
theorem recvDnHeader_cases {p : List Byte} {f g : State → State} {s : State}
    {o : Host.Outcome State Fault Refusal} (h : recvDnHeader p f g s = o) :
    (s.mode = .headers ∧ o = .next (downHeader p f s)) ∨
    (s.mode = .fwdAck ∧ o = .next (fwdAckHeader p g s)) ∨
    ((s.mode = .ownerBody ∨ s.mode = .fwdBody ∨ s.mode = .fwdReply) ∧
      o = .fault (.undispatched .dn .header)) := by
  unfold recvDnHeader at h
  split at h <;> simp_all

/-- An outcome of a Body, by the link and the mode (41_header_ops R120). -/
theorem recvBody_cases {rx : Link} {p : List Byte} {act : State → State} {s : State}
    {o : Host.Outcome State Fault Refusal} (h : recvBody rx p act s = o) :
    (rx = .up ∧ s.mode = .ownerBody ∧ o = .next (ownerBody p act s)) ∨
    (rx = .up ∧ s.mode = .fwdBody ∧ o = .next (fwdBody p s)) ∨
    (rx = .dn ∧ s.mode = .fwdReply ∧ o = .next (fwdReply p s)) ∨
    o = .fault (.undispatched rx .body) := by
  unfold recvBody at h
  split at h <;> simp_all

end Sys2Proof.Machine
end

