-- ==== Sys2Proof/Laws/PerInstr.lean ====
section
/-! SUPPORT. Statements about every instruction, one lemma per constructor. -/

namespace Sys2Proof.Laws.EncodedSize

/-- A well-formed instruction's packet has its format's length, 15 or 528 bytes (30_encoding R70). -/
def Statement (i : Instr) : Prop :=
  ∀ om km, i.WellFormed → (encode om km i).length = i.format.size

theorem ack (rx : Link) (hop csum : Byte) (target : BoardId) :
    Statement (.ack rx hop csum target) := fun _ _ _ => rfl

theorem ping (rx : Link) (hop csum : Byte) (target : BoardId) :
    Statement (.ping rx hop csum target) := fun _ _ _ => rfl

theorem read (rx : Link) (hop csum : Byte) (target : BoardId) :
    Statement (.read rx hop csum target) := fun _ _ _ => rfl

theorem write (rx : Link) (hop csum : Byte) (target : BoardId) :
    Statement (.write rx hop csum target) := fun _ _ _ => rfl

theorem exec (rx : Link) (hop csum : Byte) (target : BoardId) :
    Statement (.exec rx hop csum target) := fun _ _ _ => rfl

theorem bodyMem (rx : Link) (csum : Byte) (target : BoardId) (offset : Half) (payload : List Byte) :
    Statement (.bodyMem rx csum target offset payload) := fun om km h => by
  have : payload.length = 512 := by simpa [Instr.WellFormed, Instr.wellFormed] using h
  simp [encode, Instr.format, Format.size, this]

theorem bodySens (rx : Link) (csum : Byte) (target : BoardId) (offset : Half) (payload : List Byte) :
    Statement (.bodySens rx csum target offset payload) := fun om km h => by
  have : payload.length = 512 := by simpa [Instr.WellFormed, Instr.wellFormed] using h
  simp [encode, Instr.format, Format.size, this]

theorem bodyCode (rx : Link) (csum : Byte) (target : BoardId) (offset : Half) (payload : List Byte) :
    Statement (.bodyCode rx csum target offset payload) := fun om km h => by
  have : payload.length = 512 := by simpa [Instr.WellFormed, Instr.wellFormed] using h
  simp [encode, Instr.format, Format.size, this]

end Sys2Proof.Laws.EncodedSize
end

