-- ==== Sys2Proof/Tests/Slice0.lean ====
section
/-! SUPPORT. Tests whose expected results come from 95_test_vectors (each names its vector), and for every
obligation with hypotheses a concrete state and operands that meet them together. -/

namespace Sys2Proof.Tests

open Sys2Proof Sys2Proof.Machine

/-! ## Data of 95_test_vectors section 0 -/

def idA : BoardId := ⟨0x1, 0x2, 0x3⟩
def idB : BoardId := ⟨0x4, 0x5, 0x6⟩
def bytesA : List Byte := [0x01, 0, 0, 0, 0x02, 0, 0, 0, 0x03, 0, 0, 0]
def bytesB : List Byte := [0x04, 0, 0, 0, 0x05, 0, 0, 0, 0x06, 0, 0, 0]
def bytes0 : List Byte := List.replicate 12 0x00
def fill (v : Byte) : List Byte := List.replicate 512 v
def byteSum (c : List Byte) : Byte := c.foldl (· + ·) 0x00

/-- Endpoint A of the vectors at power-on. -/
def deviceA : State := State.reset

/-- Endpoint A awaiting the Body of its exchange, the settle delay over. -/
def owner (op : Xop) : State :=
  { deviceA with st := .awaitingBody, xop := op, xtgt := idA, up := ⟨some .body, []⟩, dn := ⟨none, []⟩ }

/-- Endpoint A relaying an exchange with B. -/
def relay (f : Fph) (op : Xop) : State :=
  { deviceA with
    st := .forwarding, fph := f, xop := op, xtgt := idB
    up := ⟨armed (rxMode .forwarding f) .up, []⟩, dn := ⟨armed (rxMode .forwarding f) .dn, []⟩ }

/-- The next state, if there is one. -/
def after (o : Host.Outcome State Fault Refusal) : Option State :=
  match o with
  | .next s => some s
  | .fault _ => none
  | .refused _ => none

/-- A field of the next state. -/
def result {α : Type} (o : Host.Outcome State Fault Refusal) (f : State → α) : Option α := (after o).map f

/-- One step whose byte completes packet `p` on link `l`. -/
def arrive (l : Link) (p : List Byte) (s : State) : Host.Outcome State Fault Refusal :=
  step { s.setFramer l ⟨(s.framer l).need, p.dropLast⟩ with inputs := [rxEvent l (p.getLastD 0x00)] }

/-! ## WellFormed -/

theorem test_ill_formed_bodyMem_refused :
    (Instr.bodyMem .up 0 idA 0 (List.replicate 511 0)).wellFormed = false := by decide +kernel
theorem test_ill_formed_bodySens_refused :
    (Instr.bodySens .up 0 idA 0 (List.replicate 513 0)).wellFormed = false := by decide +kernel
theorem test_ill_formed_bodyCode_refused :
    (Instr.bodyCode .dn 0 idA 0 []).wellFormed = false := by decide
theorem test_well_formed_body_accepted : (Instr.bodyCode .dn 0 idA 0 (fill 0)).wellFormed = true := by
  decide +kernel
theorem test_short_packet_rejected :
    decode OpcodeMap.standard KindMap.standard .up .header [0x01] = .reject (.byteCount 1) := by decide

/-! ## Decode: written-out packets (30_encoding R71, R72, R76, R77) -/

/-- TC4. -/
theorem test_decode_ack : decode OpcodeMap.standard KindMap.standard .dn .header ([0x00, 0x01, 0x00] ++ bytesA) =
    .instr (.ack .dn 0x01 0x00 idA) := by decide
/-- TH4's packet. -/
theorem test_decode_ping : decode OpcodeMap.standard KindMap.standard .up .header ([0x01, 0xFF, 0x00] ++ bytes0) =
    .instr (.ping .up 0xFF 0x00 ⟨0, 0, 0⟩) := by decide
/-- TC2's packet. -/
theorem test_decode_read : decode OpcodeMap.standard KindMap.standard .up .header
    [0x02, 0x07, 0x5A, 0x44, 0x33, 0x22, 0x11, 0x88, 0x77, 0x66, 0x55, 0xCC, 0xBB, 0xAA, 0x99] =
    .instr (.read .up 0x07 0x5A ⟨0x11223344, 0x55667788, 0x99AABBCC⟩) := by decide
/-- TX3's packet. -/
theorem test_decode_write : decode OpcodeMap.standard KindMap.standard .up .header ([0x03, 0x00, 0x09] ++ bytesA) =
    .instr (.write .up 0x00 0x09 idA) := by decide
/-- TH11's packet. -/
theorem test_decode_exec : decode OpcodeMap.standard KindMap.standard .up .header ([0x04, 0x00, 0x00] ++ bytesB) =
    .instr (.exec .up 0x00 0x00 idB) := by decide
/-- TC5's packet, the payload not zero. -/
theorem test_decode_bodyMem : decode OpcodeMap.standard KindMap.standard .up .body
    ([0x00, 0x07] ++ bytesA ++ [0x02, 0x01] ++ fill 0x55) = .instr (.bodyMem .up 0x07 idA 0x0102 (fill 0x55)) := by
  decide +kernel
/-- TC6's packet. -/
theorem test_decode_bodySens : decode OpcodeMap.standard KindMap.standard .up .body
    ([0x01, 0x00] ++ bytesA ++ [0x00, 0x00] ++ fill 0) = .instr (.bodySens .up 0x00 idA 0 (fill 0)) := by
  decide +kernel
/-- TB10's packet. -/
theorem test_decode_bodyCode : decode OpcodeMap.standard KindMap.standard .dn .body
    ([0x02, 0x00] ++ bytesA ++ [0x00, 0x00] ++ fill 0x90) = .instr (.bodyCode .dn 0x00 idA 0 (fill 0x90)) := by
  decide +kernel
/-- TH13's packet. -/
theorem test_decode_unknown_op : decode OpcodeMap.standard KindMap.standard .up .header ([0xFF, 0x00, 0x00] ++ bytesA) =
    .reject (.unknownOp 0xFF) := by decide
/-- TB11's packet. -/
theorem test_decode_unknown_kind : decode OpcodeMap.standard KindMap.standard .up .body
    ([0x03, 0x00] ++ bytesA ++ [0x00, 0x00] ++ fill 0) = .reject (.unknownKind 0x03) := by decide +kernel
/-- TC3: all bits set are decoded without a check. -/
theorem test_decode_header_all_ones : decodeHeader (List.replicate 15 0xFF) =
    ⟨0xFF, 0xFF, 0xFF, ⟨0xFFFFFFFF, 0xFFFFFFFF, 0xFFFFFFFF⟩⟩ := by decide
/-- TC1. -/
theorem test_encode_header : encodeHeader ⟨0x01, 0x00, 0x00, idA⟩ = [0x01, 0x00, 0x00] ++ bytesA := by decide
/-- TC5. -/
theorem test_encode_body : encodeBody ⟨0x00, 0x00, idA, 0x0102, fill 0⟩ =
    [0x00, 0x00] ++ bytesA ++ [0x02, 0x01] ++ fill 0 := by decide +kernel
theorem test_table_word : decodeTableWord 8 0x01 = some (.ping .up 0 0 ⟨0, 0, 0⟩) := by decide
theorem test_table_vector : decodeTableWord 4224 0x01 = some (.bodySens .up 0 ⟨0, 0, 0⟩ 0 (fill 0)) := by
  decide +kernel

/-! ## Checksums, with the test-instance byte sum of 95_test_vectors -/

/-- TC13. -/
theorem test_checksum_accepts : csumTest .verify byteSum (coverHeader ([0x01, 0x00, 0x01] ++ bytes0)) 0x01 = true := by
  decide
theorem test_checksum_refuses : csumTest .verify byteSum (coverHeader ([0x01, 0x00, 0x00] ++ bytes0)) 0x00 = false := by
  decide
/-- TC14. -/
theorem test_checksum_fill :
    csumFill .verify byteSum (coverBody (encodeBody ⟨0x00, 0x00, idA, 0x0001, fill 0x55⟩)) = 0x07 := by decide +kernel
/-- TC10. -/
theorem test_gen_header : genHeader Config.sample ⟨0x00, 0x01, 0x77, idA⟩ = [0x00, 0x01, 0x00] ++ bytesA := by decide

/-! ## One step of each instruction -/

/-- TF1. -/
theorem test_ack_relayed : result (arrive .dn ([0x00, 0x00, 0x00] ++ bytesB) (relay .fwdAck .read))
    (fun t => (t.fph, t.up.need, t.dn.need, t.upTx)) =
    some (.fwdBody, some .body, none, [0x00, 0x00, 0x00] ++ bytesB) := by decide
/-- TF10. -/
theorem test_ack_preempts : result (arrive .up ([0x00, 0x00, 0x00] ++ bytes0) (relay .fwdAck .read))
    (fun t => (t.st, t.err, t.upTx, t.dnTx)) = some (.idle, 0x80, [], []) := by decide
/-- TH4. -/
theorem test_ping_claim_wraps : result (arrive .up ([0x01, 0xFF, 0x00] ++ bytes0) deviceA)
    (fun t => (t.upTx, t.settle, t.pendDn)) =
    some ([0x00, 0x00, 0x00] ++ bytesA, 2, some ([0x01, 0x00, 0x00] ++ bytes0)) := by decide
/-- TH6. -/
theorem test_ping_echo : result (arrive .up ([0x01, 0x05, 0x00] ++ bytesA) deviceA)
    (fun t => (t.upTx, t.dnTx, t.settle)) = some ([0x00, 0x05, 0x00] ++ bytesA, [], 0) := by decide
/-- TH15. -/
theorem test_read_owned : result (arrive .up ([0x02, 0x09, 0x00] ++ bytesA) deviceA)
    (fun t => (t.st, t.xop, t.upTx)) = some (.awaitingBody, .read, [0x00, 0x09, 0x00] ++ bytesA) := by decide
/-- TH10. -/
theorem test_read_sentinel : result (arrive .up ([0x02, 0x00, 0x00] ++ bytes0) deviceA)
    (fun t => (t.st, t.fph, t.dnTx)) = some (.forwarding, .fwdAck, [0x02, 0x00, 0x00] ++ bytes0) := by decide
/-- TH14. -/
theorem test_write_discards_downlink : result
    (arrive .up ([0x03, 0x00, 0x00] ++ bytesA)
      { deviceA with st := .awaitingHeader, dn := ⟨some .header, [1, 2, 3, 4]⟩ })
    (fun t => (t.st, t.dn, t.err)) = some (.awaitingBody, ⟨none, []⟩, 0x20) := by decide
/-- TH9. -/
theorem test_write_relayed : result (arrive .up ([0x03, 0x00, 0x00] ++ bytesB) deviceA)
    (fun t => (t.st, t.xop, t.xtgt, t.dnTx)) = some (.forwarding, .write, idB, [0x03, 0x00, 0x00] ++ bytesB) := by
  decide
/-- TH11. -/
theorem test_exec_dropped : result (arrive .up ([0x04, 0x00, 0x00] ++ bytesB) deviceA)
    (fun t => (t.st, t.err, t.upTx, t.dnTx)) = some (.idle, 0x00, [], []) := by decide
/-- TB4's block, a byte set at each end (R154, R158). -/
theorem test_write_last_block : result
    (arrive .up ([0x00, 0x00] ++ bytesA ++ [0x7F, 0x00] ++ ([0x01] ++ List.replicate 510 0x00 ++ [0x02])) (owner .write))
    (fun t => (t.st, t.mem)) = some (.idle, [(0xFE00, 0x01), (0xFFFF, 0x02)]) := by decide +kernel
/-- TB3. -/
theorem test_read_fresh_memory : result (arrive .up ([0x00, 0x00] ++ bytesA ++ [0x00, 0x00] ++ fill 0xAA) (owner .read))
    (fun t => t.upTx) = some ([0x00, 0x00] ++ bytesA ++ [0x00, 0x00] ++ fill 0) := by decide +kernel
/-- TB9. -/
theorem test_sensors_reserved : result (arrive .up ([0x01, 0x00] ++ bytesA ++ [0x00, 0x00] ++ fill 0) (owner .write))
    (fun t => (t.st, t.err, t.mem)) = some (.idle, 0x10, []) := by decide +kernel
/-- TB13. -/
theorem test_sensors_wrong_target :
    result (arrive .up ([0x01, 0x00] ++ bytesB ++ [0x00, 0x00] ++ fill 0) (owner .write)) (fun t => t.err) =
    some 0x08 := by decide +kernel
/-- TB10. -/
theorem test_code_reserved : result (arrive .up ([0x02, 0x00] ++ bytesA ++ [0x00, 0x00] ++ fill 0x90) (owner .read))
    (fun t => (t.st, t.err, t.upTx)) = some (.idle, 0x10, []) := by decide +kernel
/-- TF6: an unknown kind is forwarded. -/
theorem test_relay_forwards_unknown_kind :
    result (arrive .up ([0x09, 0x00] ++ bytesB ++ [0xFF, 0xFF] ++ fill 0) (relay .fwdBody .write))
    (fun t => (t.st, t.err, t.dnTx)) = some (.idle, 0x00, [0x09, 0x00] ++ bytesB ++ [0xFF, 0xFF] ++ fill 0) := by
  decide +kernel
/-- `withFetchWord` stages the packet that the next step runs. -/
theorem test_withFetchWord : result (step (State.reset.withFetchWord 8 0x03)) (fun t => (t.st, t.xop, t.xtgt)) =
    some (.forwarding, .write, ⟨0, 0, 0⟩) := by decide

/-! ## Witnesses: the codec, memory, reset -/

theorem witness_CodecIsABijection :
    (⟨0x7F, 0x00, idA, 0xFFFF, fill 0⟩ : BodyRec).WellFormed ∧ (List.replicate 15 (0xFF : Byte)).length = 15 ∧
    (List.replicate 528 (0xFF : Byte)).length = 528 := by decide +kernel
theorem witness_DecodeOfEncodeGivesTheInstruction :
    OpcodeMap.standard.Injective ∧ KindMap.standard.Injective ∧
    (Instr.bodyMem .up 0xFF idA 0xFFFF (fill 0)).WellFormed := by decide +kernel
theorem witness_EncodeOfDecodeGivesThePacket :
    ∃ i, decode OpcodeMap.standard KindMap.standard .up .header ([0x04, 0xFF, 0x00] ++ bytesB) = .instr i :=
  ⟨_, rfl⟩
/-- A known and an unknown code of each format, each at the edge of the map. -/
theorem witness_OnlyUnknownCodesAreRejected :
    let om := OpcodeMap.standard
    let km := KindMap.standard
    byteAt ([0x04, 0x00, 0x00] ++ bytesB) 0 ∈ [om.ack, om.ping, om.read, om.write, om.exec] ∧
    byteAt ([0x05, 0x00, 0x00] ++ bytesB) 0 ∉ [om.ack, om.ping, om.read, om.write, om.exec] ∧
    ([0x05, 0x00, 0x00] ++ bytesB : List Byte).length = 15 ∧
    byteAt (0x02 :: List.replicate 527 0x00) 0 ∈ [km.memory, km.sensors, km.code] ∧
    byteAt (0x03 :: List.replicate 527 0x00) 0 ∉ [km.memory, km.sensors, km.code] ∧
    (0x03 :: List.replicate 527 (0x00 : Byte)).length = 528 := by decide +kernel
/-- Both sides of each end of a written block. -/
theorem witness_MemReadSeesMemWrite :
    Memory.wf [(2, 0x77), (5, 0x66)] = true ∧
    [2, 3, 4, 5].map (Memory.read (memWrite [(2, 0x77), (5, 0x66)] 3 [0xAA, 0x00])) = [0x77, 0xAA, 0x00, 0x66] := by
  decide
theorem witness_BuiltPacketsCarryTheirChecksum : Config.sample.checksumMode = .none := rfl
theorem witness_ResetStep :
    ({ owner .read with err := 0x1D, settle := 1, inputs := [.reset, .tick] } : State).inputs = .reset :: [.tick] := rfl
theorem witness_PowerOnStep : ({ owner .read with inputs := [.powerOn] } : State).inputs = .powerOn :: [] := rfl
theorem witness_PowerOnMeetsTheInvariant :
    ConfigOk { Config.sample with memBytes := 1, settleTicks := 0, waitTimeout := some 1 } ∧
    ConfigOk { Config.sample with memBytes := 2 ^ 25, memInit := [(2 ^ 25 - 1, 0xFF)] } := by decide

/-! ## Witnesses: the whole machine -/

/-- A state that meets the invariant and steps, in each kind of state. -/
theorem witness_EveryStepKeepsTheInvariant :
    EndpointInv { deviceA with inputs := [.rxUp 0x01] } ∧
    (∃ t, step { deviceA with inputs := [.rxUp 0x01] } = .next t) ∧
    EndpointInv { owner .write with settle := 2, inputs := [.tick] } ∧
    EndpointInv { relay .fwdReply .read with inputs := [.rxDn 0x00] } :=
  ⟨by decide, ⟨_, rfl⟩, by decide, by decide⟩
theorem witness_NoInputStopsTheEndpoint : EndpointInv { relay .fwdBody .write with inputs := [.rxDn 0x00] } := by
  decide
/-- Both clauses: a packet the state is armed for, and one it is not. -/
theorem witness_OnlyArmedPacketsAreDispatched :
    armed (relay .fwdReply .read).mode .dn = some (Instr.bodyMem .dn 0 idB 0 []).format ∧
    armed (relay .fwdReply .read).mode .dn ≠ some (Instr.ack .dn 0 0 idB).format := by decide
theorem witness_NoStepChangesAParameter : ∃ t, step { deviceA with inputs := [.powerOn] } = .next t := ⟨_, rfl⟩
/-- A reserved `st` and an unused `fph` after a step. -/
theorem witness_ReservedStatesAreNeverEntered :
    ∃ t, step { deviceA with st := .executing, fph := .unused3, inputs := [.tick] } = .next t ∧
      t.st ∈ [St.awaitingSensorData, St.executing, St.unused6, St.unused7] ∧ t.fph = .unused3 :=
  ⟨_, rfl, by decide, rfl⟩
theorem witness_ReservedStatesBehaveAsIdle :
    ({ deviceA with st := .unused7, inputs := [.rxUp 0x00] } : State).st ∈
      [St.awaitingSensorData, St.executing, St.unused6, St.unused7] := by decide
theorem witness_ErrorBitsAreSticky :
    let s : State := { deviceA with err := 0x81, inputs := [.rxUp 0x00] }
    (∃ t, step s = .next t) ∧ s.inputs.head? ≠ some .reset ∧ s.inputs.head? ≠ some .powerOn ∧
    s.err.getLsbD 0 = true ∧ s.err.getLsbD 7 = true := ⟨⟨_, rfl⟩, by decide, by decide, by decide, by decide⟩
theorem witness_TransmitStreamsOnlyGrow :
    ∃ t, step { deviceA with upTx := [0x01], inputs := [.reset] } = .next t := ⟨_, rfl⟩
/-- A Write Body that changes memory, and an instruction that does not. -/
theorem witness_OnlyAnOwnersWriteChangesMemory :
    (∃ t, exec (.bodyMem .up 0 idA 0x7F (fill 0x01)) (owner .write) = .next t) ∧ (owner .write).mem.wf = true ∧
    (Instr.bodyMem .up 0 idA 0x7F (fill 0x01)).WellFormed ∧
    (∃ t, exec (.exec .up 0 0 idA) deviceA = .next t) := ⟨⟨_, rfl⟩, by decide, by decide +kernel, ⟨_, rfl⟩⟩

/-! ## Witnesses: events -/

def lastButOne (p : List Byte) : State :=
  { deviceA with st := .awaitingHeader, up := ⟨some .header, p.dropLast⟩, inputs := [.rxUp (p.getLastD 0x00)] }

theorem witness_StepRunsTheDecodedInstruction :
    let p : List Byte := [0x02, 0x00, 0x00] ++ bytesA
    let s := lastButOne p
    s.inputs = rxEvent .up 0x00 :: [] ∧ s.settle = 0 ∧ (s.framer .up).need = some .header ∧
    (s.framer .up).cnt + 1 = Format.header.size ∧ (s.framer (otherLink .up)).complete = false ∧
    decode s.cfg.opcodeMap s.cfg.kindMap .up .header ((s.framer .up).got ++ [0x00]) =
      .instr (.read .up 0x00 0x00 idA) := by decide

/-- An Idle endpoint with a whole Header on each link and one Tick of a settle delay left. -/
def heldPair (u d : List Byte) : State :=
  { deviceA with
    st := .awaitingHeader, settle := 1, up := ⟨some .header, u⟩, dn := ⟨some .header, d⟩, inputs := [.tick] }

theorem witness_SettleEndRunsTheHeldPacket :
    let s := heldPair ([0x01, 0x00, 0x00] ++ bytesA) []
    s.inputs = .tick :: [] ∧ s.settle = 1 ∧ (s.framer .up).need = some .header ∧
    (s.framer .up).cnt = Format.header.size ∧ (s.framer (otherLink .up)).complete = false ∧
    decode s.cfg.opcodeMap s.cfg.kindMap .up .header (s.framer .up).got = .instr (.ping .up 0x00 0x00 idA) := by
  decide

/-- The hypotheses of `UplinkIsServedFirst` on a pair of instructions and the state after the first. -/
def BothHeld (s t : State) (i j : Instr) : Prop :=
  s.inputs = .tick :: [] ∧ s.settle = 1 ∧ s.up.need = some .header ∧ s.up.cnt = Format.header.size ∧
  s.dn.need = some .header ∧ s.dn.cnt = Format.header.size ∧
  decode s.cfg.opcodeMap s.cfg.kindMap .up .header s.up.got = .instr i ∧
  decode s.cfg.opcodeMap s.cfg.kindMap .dn .header s.dn.got = .instr j ∧
  exec i { s with
    up := ⟨some .header, []⟩, settle := 0, pendDn := none
    dnTx := s.dnTx ++ s.pendDn.getD [], inputs := [] } = .next t

/-- TF14: the second packet is served too. -/
theorem witness_UplinkIsServedFirst :
    let s := heldPair ([0x01, 0x00, 0x00] ++ bytesA) ([0x00, 0x00, 0x00] ++ bytesB)
    ∃ t, BothHeld s t (.ping .up 0x00 0x00 idA) (.ack .dn 0x00 0x00 idB) ∧ t.settle = 0 ∧ t.dn = s.dn :=
  ⟨_, ⟨rfl, rfl, rfl, rfl, rfl, rfl, by decide, by decide, rfl⟩, rfl, rfl⟩
/-- The first packet starts a settle delay. -/
theorem witness_UplinkIsServedFirst_delay :
    let s := heldPair ([0x01, 0x00, 0x00] ++ bytes0) ([0x00, 0x00, 0x00] ++ bytesB)
    ∃ t, BothHeld s t (.ping .up 0x00 0x00 ⟨0, 0, 0⟩) (.ack .dn 0x00 0x00 idB) ∧ t.settle = 2 :=
  ⟨_, ⟨rfl, rfl, rfl, rfl, rfl, rfl, by decide, by decide, rfl⟩, rfl⟩

/-- Lost at a full framer and at one not armed; stored as the 14th byte, and as the 15th during a delay. -/
theorem witness_ReceivedByteIsStoredOrLost :
    (let s := heldPair (List.replicate 15 0) []
     0 < s.settle ∧ (s.framer .up).cnt = needBytes (s.framer .up).need) ∧
    (let s := owner .read
     (s.framer (otherLink .dn)).complete = false ∧ (s.framer .dn).complete = false ∧
     (s.framer .dn).cnt + 1 ≠ needBytes (s.framer .dn).need ∧ needBytes (s.framer .dn).need = 0) ∧
    (let s := lastButOne (List.replicate 14 0)
     (s.framer (otherLink .up)).complete = false ∧ (s.framer .up).complete = false ∧
     (s.framer .up).cnt + 1 ≠ needBytes (s.framer .up).need ∧ s.inputs = rxEvent .up 0 :: []) ∧
    (let s := heldPair (List.replicate 14 0) []
     0 < s.settle ∧ (s.framer .up).cnt + 1 = needBytes (s.framer .up).need) := by decide
/-- A state with no packet waiting after an event, and one in a settle delay. -/
theorem witness_ServiceLeavesNoPacketWaiting :
    (∃ t, handle .tick deviceA = .next t) ∧
    (∃ t, handle (.rxUp 0) { deviceA with settle := 1, up := ⟨some .header, List.replicate 14 0⟩ } = .next t) :=
  ⟨⟨_, rfl⟩, ⟨_, rfl⟩⟩
theorem witness_TickCountsDown :
    1 < ({ owner .read with settle := 2, inputs := [.tick] } : State).settle ∧
    (∀ n ∈ [0, 1], ∀ w ∈ [0, 2],
      let s : State := { owner .read with settle := n, waitT := w, inputs := [.tick] }
      s.inputs = .tick :: [] ∧ s.up.complete = false ∧ s.dn.complete = false) := by decide
theorem witness_WaitTimeoutAborts :
    let s : State := { relay .fwdReply .read with waitT := 1, inputs := [.tick], dn := ⟨some .body, [0x00]⟩ }
    s.inputs = .tick :: [] ∧ s.settle = 0 ∧ s.waitT = 1 ∧ s.up.complete = false ∧ s.dn.complete = false := by decide

/-! ## Witnesses: Headers -/

/-- The hypotheses of `UplinkAckReturnsToIdle`, `OwnPingIsEchoed`, `OthersPingIsForwarded`,
`ReadHeaderOpensTheExchange`, `WriteHeaderOpensTheExchange`, `ExecHeaderReturnsToIdle` and, with a settle delay, `SentinelPingIsClaimed`: every operation at each kind of
target with the largest hop count. -/
theorem witness_uplink_headers :
    let m := deviceA.cfg.opcodeMap
    deviceA.mode = .headers ∧ FramersArmed deviceA ∧
    (∀ op ∈ [m.ack, m.ping, m.read, m.write, m.exec], ∀ t ∈ [⟨0, 0, 0⟩, deviceA.cfg.ownId, idB],
      csumOkHeader deviceA.cfg (encodeHeader ⟨op, 0xFF, 0x00, t⟩) = true) ∧
    idB ≠ BoardId.sentinel ∧ idB ≠ deviceA.cfg.ownId ∧ deviceA.cfg.ownId ≠ BoardId.sentinel ∧
    ConfigOk deviceA.cfg ∧ deviceA.cfg.settleTicks ≠ 0 := by decide
/-- The same in mode `verify`, the claim at once when `SETTLE_TICKS` is 0. -/
theorem witness_SentinelPingIsClaimed :
    let s : State := { deviceA with cfg := { Config.sample with checksumMode := .verify, settleTicks := 0 } }
    s.mode = .headers ∧ FramersArmed s ∧ s.cfg.settleTicks = 0 ∧
    csumOkHeader s.cfg (encodeHeader ⟨s.cfg.opcodeMap.ping, 0x00,
      Config.csumH (coverHeader (encodeHeader ⟨0x01, 0x00, 0x00, ⟨0, 0, 0⟩⟩)), ⟨0, 0, 0⟩⟩) = true :=
  ⟨by decide, by decide, rfl, beq_self_eq_true (a := Config.csumH _)⟩
/-- The hypotheses of `UnknownOperationIsDropped` and `UnknownDownlinkHeaderIsDropped`. -/
theorem witness_unknown_headers :
    let p : List Byte := [0x05, 0x00, 0x00] ++ bytes0
    p.length = 15 ∧ csumOkHeader deviceA.cfg p = true ∧
    byteAt p 0 ∉ [deviceA.cfg.opcodeMap.ack, deviceA.cfg.opcodeMap.ping, deviceA.cfg.opcodeMap.read,
      deviceA.cfg.opcodeMap.write, deviceA.cfg.opcodeMap.exec] ∧
    deviceA.mode = .headers ∧ FramersArmed deviceA ∧
    (relay .fwdAck .read).mode = .fwdAck ∧ FramersArmed (relay .fwdAck .read) := by decide
/-- Preemption in both phases: FWD_ACK without and with a partial Header (log 22), FWD_REPLY with a partial reply
(TF8, TF9). -/
theorem witness_NewHeaderPreemptsTheRelay :
    let p : List Byte := [0x01, 0x00, 0x00] ++ bytes0
    let r : State := { relay .fwdReply .read with dn := ⟨some .body, List.replicate 100 0⟩ }
    let h : State := { relay .fwdAck .write with dn := ⟨some .header, [0x00, 0x02]⟩ }
    (relay .fwdAck .write).mode = .fwdAck ∧ FramersArmed (relay .fwdAck .write) ∧
    h.mode = .fwdAck ∧ FramersArmed h ∧ csumOkHeader h.cfg p = true ∧
    r.mode = .fwdReply ∧ FramersArmed r ∧ p.length = 15 ∧ csumOkHeader r.cfg p = true := by decide
/-- The hypotheses of `DownlinkAckIsRelayedInIdle`, `DownlinkAckAdvancesTheRelay` and
`DownlinkRequestIsUnexpected`. -/
theorem witness_downlink_headers :
    (∀ s ∈ [deviceA, relay .fwdAck .read, { relay .fwdAck .read with up := ⟨some .header, [0]⟩ }],
      FramersArmed s ∧ (s.mode = .headers ∨ s.mode = .fwdAck) ∧
      csumOkHeader s.cfg (encodeHeader ⟨s.cfg.opcodeMap.ack, 0x00, 0x00, idB⟩) = true ∧
      ∀ i ∈ [Instr.ping .dn 0 0 idA, .read .dn 0 0 idA, .write .dn 0 0 idA, .exec .dn 0 0 idA],
        csumOkHeader s.cfg (encode s.cfg.opcodeMap s.cfg.kindMap i) = true) := by decide

/-! ## Witnesses: Bodies -/

/-- The hypotheses of `WriteBodyStoresThePayload`, `ReadBodyRepliesWithMemory`, `ReservedKindsAreDropped`,
`WrongTargetBodyIsDropped` and `OutOfRangeBodyIsDropped`, with `witness_block_range`, in both exchanges. -/
theorem witness_owner : ∀ op ∈ [Xop.read, Xop.write],
    let s := owner op
    s.mode = .ownerBody ∧ s.up = ⟨some .body, []⟩ ∧ s.dn = ⟨none, []⟩ ∧ s.xop = op ∧ s.mem.wf = true ∧
    idB ≠ s.xtgt ∧
    ∀ k ∈ [s.cfg.kindMap.memory, s.cfg.kindMap.sensors, s.cfg.kindMap.code],
      csumOkBody s.cfg (encodeBody ⟨k, 0x00, s.xtgt, 0x7F, fill 0⟩) = true := by decide +kernel
/-- The last block inside `MEM` and the first outside it. -/
theorem witness_block_range :
    (0x7F : Half).toNat * 512 + 512 ≤ (owner .write).cfg.memBytes ∧
    (owner .write).cfg.memBytes < (0x80 : Half).toNat * 512 + 512 ∧ (fill 0x01).length = 512 := by decide +kernel
theorem witness_UnknownKindIsDroppedAtTheOwner :
    let s := owner .read
    let p : List Byte := [0x03, 0x00] ++ bytesB ++ [0x80, 0x00] ++ fill 0
    p.length = 528 ∧ byteAt p 0 ∉ [s.cfg.kindMap.memory, s.cfg.kindMap.sensors, s.cfg.kindMap.code] ∧
    csumOkBody s.cfg p = true := by decide +kernel
theorem witness_WriteThenReadReturnsThePayload :
    ∃ t, exec (.bodyMem .up 0 idA 0x7F (fill 0x01)) (owner .write) = .next t ∧
      (let u : State := { owner .read with mem := t.mem }
       u.cfg = (owner .write).cfg ∧ u.mem = t.mem ∧ u.mode = .ownerBody ∧ u.xop = .read ∧
       csumOkBody u.cfg (encodeBody ⟨u.cfg.kindMap.memory, 0, u.xtgt, 0x7F, fill 0⟩) = true) := by
  have h : ∃ t, exec (.bodyMem .up 0 idA 0x7F (fill 0x01)) (owner .write) = .next t := ⟨_, rfl⟩
  obtain ⟨t, ht⟩ := h
  exact ⟨t, ht, rfl, rfl, rfl, rfl, rfl⟩
/-- The hypotheses of `RelayForwardsTheBody`, `RelayReturnsTheReply` and `BodyInstructionsPassARelay`. -/
theorem witness_relay_bodies :
    let p : List Byte := [0x09, 0x00] ++ bytesB ++ [0xFF, 0xFF] ++ fill 0
    let i : Instr := .bodyCode .up 0 idB 0 (fill 0)
    p.length = 528 ∧ csumOkBody deviceA.cfg p = true ∧ i.format = .body ∧ i.WellFormed ∧
    csumOkBody deviceA.cfg (encode deviceA.cfg.opcodeMap deviceA.cfg.kindMap i) = true ∧
    (∀ op ∈ [Xop.read, Xop.write],
      let s := relay .fwdBody op
      s.cfg = deviceA.cfg ∧ s.mode = .fwdBody ∧ s.up = ⟨some .body, []⟩ ∧ s.dn = ⟨none, []⟩ ∧ s.xop = op) ∧
    (let s := relay .fwdReply .read
     s.cfg = deviceA.cfg ∧ s.mode = .fwdReply ∧ s.up.need = some .header ∧ s.dn = ⟨some .body, []⟩ ∧
     (Instr.bodyCode .dn 0 idB 0 (fill 0)).rx = .dn) := by decide +kernel
/-- The two Header clauses; the Body clauses are those of `witness_relay_bodies`. -/
theorem witness_RelayedPacketsAreByteIdentical :
    let p : List Byte := [0x01, 0x00, 0x00] ++ bytesB
    let q : List Byte := [0x00, 0x02, 0x00] ++ bytesB
    deviceA.cfg.opcodeMap.Injective ∧ deviceA.mode = .headers ∧ p.length = 15 ∧ csumOkHeader deviceA.cfg p = true ∧
    byteAt p 0 = deviceA.cfg.opcodeMap.ping ∧ idAt p 3 ≠ BoardId.sentinel ∧ idAt p 3 ≠ deviceA.cfg.ownId ∧
    q.length = 15 ∧ csumOkHeader deviceA.cfg q = true ∧ byteAt q 0 = deviceA.cfg.opcodeMap.ack ∧
    (relay .fwdAck .read).mode = .fwdAck := by decide

/-! ## Witnesses: errors, runs, the chain -/

def verifying : Config := { Config.sample with checksumMode := .verify }

theorem byte_ne_succ (x : Byte) : (x + 1 == x) = false := by simp

/-- A Header whose checksum byte is one too large, whatever the checksum function, outside an exchange and at a
relay (the refused clause of `NewHeaderPreemptsTheRelay`). -/
theorem witness_CorruptPacketIsAsIfNotReceived :
    let p : List Byte := [0x01, 0x00, Config.csumH ([0x01, 0x00] ++ bytes0) + 1] ++ bytes0
    let s : State := { deviceA with cfg := verifying }
    let r : State := { relay .fwdAck .read with cfg := verifying }
    armed s.mode .up = some .header ∧ armed s.mode .dn = some .header ∧ p.length = Format.header.size ∧
    csumOkHeader s.cfg p = false ∧ r.mode = .fwdAck ∧ FramersArmed r ∧ csumOkHeader r.cfg p = false :=
  ⟨rfl, rfl, rfl, byte_ne_succ _, rfl, ⟨rfl, rfl⟩, byte_ne_succ _⟩
/-- The same for a Body, at the owner and at a relay (the refused clauses of `RelayForwardsTheBody` and
`RelayReturnsTheReply`). -/
theorem witness_CorruptPacketIsAsIfNotReceived_body :
    let p : List Byte := [0x00, Config.csumB ([0x00] ++ bytesA ++ [0, 0] ++ fill 0) + 1] ++ bytesA ++ [0, 0] ++ fill 0
    let s : State := { owner .read with cfg := verifying }
    let r : State := { relay .fwdBody .read with cfg := verifying }
    let q : State := { relay .fwdReply .read with cfg := verifying }
    armed s.mode .up = some .body ∧ p.length = Format.body.size ∧ csumOkBody s.cfg p = false ∧
    r.mode = .fwdBody ∧ csumOkBody r.cfg p = false ∧ q.mode = .fwdReply ∧ csumOkBody q.cfg p = false :=
  ⟨rfl, by decide +kernel, byte_ne_succ _, rfl, byte_ne_succ _, rfl, byte_ne_succ _⟩
theorem witness_AckPassesAnIdleEndpoint :
    let p : List Byte := [0x00, 0x02, 0x00] ++ bytesB
    EndpointInv deviceA ∧ deviceA.st = .idle ∧ deviceA.settle = 0 ∧ p.length = 15 ∧
    byteAt p 0 = deviceA.cfg.opcodeMap.ack ∧ csumOkHeader deviceA.cfg p = true :=
  ⟨by decide, by decide⟩
/-- With a settle delay, and without one. -/
theorem witness_SentinelPingIsClaimedAndPassedOn :
    let s : State := { deviceA with cfg := { Config.sample with settleTicks := 0 } }
    let p : List Byte := [0x01, 0xFF, 0x00] ++ bytes0
    EndpointInv deviceA ∧ EndpointInv s ∧ (s.st = .idle ∧ s.settle = 0 ∧ p.length = 15 ∧
    byteAt p 0 = s.cfg.opcodeMap.ping ∧ idAt p 3 = BoardId.sentinel ∧ csumOkHeader s.cfg p = true) :=
  ⟨by decide, by decide, by decide⟩

/-- Two endpoints, one byte pending to the first. -/
def chainAB : Chain :=
  { Chain.powerOn [Config.sample, { Config.sample with ownId := idB }] with hostTx := [0x01] }

theorem witness_ChainDeliversOnlyWhatWasSent :
    chainAB.DeliveredWithinSent ∧ (∃ d, chainAB.move (.deliverUp 0) = .next d) ∧
    ∃ d, Chain.run [.hostSend [0x01], .deliverUp 0] (Chain.powerOn [Config.sample]) = .next d := by
  refine ⟨⟨by decide, fun k n h => ?_⟩, ⟨_, rfl⟩, ⟨_, rfl⟩⟩
  match k, h with
  | 0, h => cases h; decide
  | 1, h => cases h; decide
  | _ + 2, h => cases h

/-- The chain A, B with one byte pending on every link. -/
def chainPending : Chain where
  nodes := [⟨{ deviceA with upTx := [0x04], dnTx := [0x02] }, 0, 0⟩,
    ⟨{ deviceA with cfg := { Config.sample with ownId := idB }, upTx := [0x03] }, 0, 0⟩]
  hostTx := [0x01]
  hostSeen := 0

/-- The clauses in order: the host's byte to A, A's to B, B's to A, A's to the host. -/
theorem witness_ChainDeliversTheNextByte :
    ∃ n m ep₀ ep₁ ep₂, chainPending.nodes[0]? = some n ∧ chainPending.nodes[1]? = some m ∧
      (chainPending.hostTx[n.upSeen]? = some 0x01 ∧ handle (.rxUp 0x01) n.ep = .next ep₀) ∧
      (n.ep.dnTx[m.upSeen]? = some 0x02 ∧ handle (.rxUp 0x02) m.ep = .next ep₁) ∧
      (m.ep.upTx[n.dnSeen]? = some 0x03 ∧ handle (.rxDn 0x03) n.ep = .next ep₂) ∧
      n.ep.upTx[chainPending.hostSeen]? = some 0x04 :=
  ⟨_, _, _, _, _, rfl, rfl, ⟨rfl, rfl⟩, ⟨rfl, rfl⟩, ⟨rfl, rfl⟩, rfl⟩
theorem witness_ChainMovesKeepTheInvariant : (∀ n ∈ chainAB.nodes, EndpointInv n.ep) ∧ chainAB.DistinctIds := by
  refine ⟨fun n h => ?_, by decide⟩
  simp only [chainAB, Chain.powerOn, List.map_cons, List.map_nil, List.mem_cons, List.not_mem_nil, or_false] at h
  rcases h with rfl | rfl <;> decide

/-! ## The host's programs (30_encoding R89) -/

/-- P1's Ping, its omitted checksum 0 in mode `verify` too (R87). -/
theorem test_host_discover : hostDiscover verifying 2 =
    [.send ([0x01, 0x00, 0x00] ++ bytes0), .receive .header, .receive .header] := by decide
/-- P2's Read of block 3. -/
theorem test_host_read : hostRead verifying idB 0x0003 =
    [.send ([0x02, 0x00, 0x00] ++ bytesB), .receive .header,
     .send ([0x00, 0x00] ++ bytesB ++ [0x03, 0x00] ++ fill 0), .receive .body] := by decide +kernel
/-- A short payload is followed by zeros (R87). -/
theorem test_host_write : hostWrite Config.sample idB 0x0003 [0xAA] =
    [.send ([0x03, 0x00, 0x00] ++ bytesB), .receive .header,
     .send ([0x00, 0x00] ++ bytesB ++ [0x03, 0x00] ++ [0xAA] ++ List.replicate 511 0)] := by decide +kernel

end Sys2Proof.Tests
end

/-! # Proofs of the statements about the state (10_state)

What an event can do is said once, in two layers: `Evolves` and `Processed` hold between any state and its next,
`LoopInv` and the layers under it are what the invariant is inside an event. -/

/-! ## Framers and the service loop -/

namespace Sys2Proof.Machine

/-- 10_state R25: complete is armed and holding exactly the armed size. -/
theorem complete_iff (f : Framer) :
    f.complete = true ↔ ∃ fmt, f.need = some fmt ∧ f.cnt = fmt.size := by
  obtain ⟨need, got⟩ := f
  cases need with
  | none => simp [Framer.complete, needBytes]
  | some fmt => cases fmt <;> simp [Framer.complete, needBytes, Format.size]

theorem complete_of_got_nil {f : Framer} (h : f.got = []) : f.complete = false := by
  refine Bool.eq_false_iff.mpr fun hc => ?_
  obtain ⟨fmt, -, hcnt⟩ := (complete_iff f).mp hc
  cases fmt <;> simp [Framer.cnt, h, Format.size] at hcnt

/-- A framer that can take a byte, and holds no more than it is armed for, has room for one more. -/
theorem cnt_lt_of_not_full {f : Framer} (hfull : f.full = false) (hfit : f.cnt ≤ needBytes f.need) :
    f.cnt < needBytes f.need := by
  simp only [Framer.full, Bool.or_eq_false_iff, beq_eq_false_iff_ne] at hfull
  omega

/-- A link is served only when no settle delay runs and its framer is complete (41_header_ops R125). -/
theorem nextServed_some {s : State} {l : Link} (h : nextServed s = some l) :
    s.settle = 0 ∧ (s.framer l).complete = true := by
  unfold nextServed at h
  split at h
  · cases h
  · next hs =>
    split at h
    · next hu => cases h; exact ⟨by omega, hu⟩
    · split at h
      · next hd => cases h; exact ⟨by omega, hd⟩
      · cases h

theorem nextServed_none {s : State} (h : nextServed s = none) :
    0 < s.settle ∨ s.up.complete = false ∧ s.dn.complete = false := by
  unfold nextServed at h
  split at h
  · exact .inl ‹_›
  · right
    split at h
    · cases h
    · split at h
      · cases h
      · exact ⟨by simpa using ‹¬ s.up.complete = true›, by simpa using ‹¬ s.dn.complete = true›⟩

/-- What a pass of the loop does: the complete packet leaves its framer, which stays armed, and is processed
(41_header_ops R125). -/
theorem serve_of_complete {s : State} {l : Link} (h : (s.framer l).complete = true) :
    ∃ fmt, (s.framer l).need = some fmt ∧
      serve l s = procPacket l fmt (s.framer l).got (s.setFramer l ⟨some fmt, []⟩) := by
  obtain ⟨fmt, hneed, -⟩ := (complete_iff _).mp h
  refine ⟨fmt, hneed, ?_⟩
  simp only [serve]
  split
  · simp_all
  · next g hg => rw [hg]; cases hneed.symm.trans hg; rfl

end Sys2Proof.Machine

/-! ## What every event leaves of a state -/

namespace Sys2Proof.Machine

/-- The values 4 to 7 of `st`, which no rule enters (10_state R22). -/
abbrev reservedSts : List St := [.awaitingSensorData, .executing, .unused6, .unused7]

/-- What holds of the state before and after every operation but `Reset`. A field that a proof of it
leaves out is one the operation does not write. -/
structure Evolves (s t : State) : Prop where
  cfg : t.cfg = s.cfg := by rfl
  st : t.st = s.st ∨ t.st ∉ reservedSts := by exact .inl rfl
  fph : t.fph = s.fph ∨ t.fph ≠ .unused3 := by exact .inl rfl
  err : ∀ k, s.err.getLsbD k = true → t.err.getLsbD k = true := by exact fun _ h => h
  upTx : s.upTx <+: t.upTx := by exact List.prefix_rfl
  dnTx : s.dnTx <+: t.dnTx := by exact List.prefix_rfl

/-- What also holds when the operation is part of processing a packet: it stores no byte, so each framer is as it
was or empty (41_header_ops R124). -/
structure Processed (s t : State) : Prop extends Evolves s t where
  up : t.up = s.up ∨ t.up.got = [] := by exact .inl rfl
  dn : t.dn = s.dn ∨ t.dn.got = [] := by exact .inl rfl

theorem Evolves.trans {s t u : State} (h : Evolves s t) (k : Evolves t u) : Evolves s u where
  cfg := k.cfg.trans h.cfg
  st := k.st.elim (fun e => e ▸ h.st) .inr
  fph := k.fph.elim (fun e => e ▸ h.fph) .inr
  err i hi := k.err i (h.err i hi)
  upTx := h.upTx.trans k.upTx
  dnTx := h.dnTx.trans k.dnTx

theorem Processed.trans {s t u : State} (h : Processed s t) (k : Processed t u) : Processed s u where
  toEvolves := h.toEvolves.trans k.toEvolves
  up := k.up.elim (fun e => e ▸ h.up) .inr
  dn := k.dn.elim (fun e => e ▸ h.dn) .inr

theorem or_keeps_bits (a b : BitVec 8) (k : Nat) (h : a.getLsbD k = true) :
    (a ||| b).getLsbD k = true := by
  simp [h]

theorem rearmed_kept_or_empty (n : Option Format) (f : Framer) :
    rearmed n f = f ∨ (rearmed n f).got = [] := by
  unfold rearmed
  split
  · exact .inl rfl
  · exact .inr rfl

/-- Idle or AwaitingHeader, and what each says of the framers (10_state R21). -/
theorem restingSt_cases (u d : Framer) :
    (restingSt u d = .awaitingHeader ∧ (0 < u.cnt ∨ 0 < d.cnt)) ∨
    (restingSt u d = .idle ∧ u.cnt = 0 ∧ d.cnt = 0) := by
  unfold restingSt
  split
  · exact .inl ⟨rfl, ‹_›⟩
  · exact .inr ⟨rfl, by omega⟩

theorem restingSt_not_reserved (u d : Framer) : restingSt u d ∉ reservedSts := by
  rcases restingSt_cases u d with ⟨h, -⟩ | ⟨h, -⟩ <;> simp [h]

/-! ### The shared operations -/

theorem raise_processed (e : EndpointError) (s : State) : Processed s (raise e s) where
  err := or_keeps_bits s.err _

theorem emit_processed (l : Link) (p : List Byte) (s : State) : Processed s (emit l p s) := by
  cases l with
  | up => exact { upTx := List.prefix_append _ _ }
  | dn => exact { dnTx := List.prefix_append _ _ }

theorem rearm_processed (s : State) : Processed s (rearm s) := by
  rw [rearm_eq]
  exact {
    err := fun k h => or_keeps_bits _ _ k (or_keeps_bits _ _ k h)
    up := rearmed_kept_or_empty _ _
    dn := rearmed_kept_or_empty _ _ }

theorem refreshIdle_processed (s : State) : Processed s (refreshIdle s) := by
  by_cases h : s.mode = .headers
  · rw [refreshIdle_of_headers h]
    exact { st := .inr (restingSt_not_reserved _ _) }
  · rw [refreshIdle_of_not_headers h]
    exact {}

theorem toIdle_processed (s : State) : Processed s (toIdle s) :=
  have enterIdle : Processed s { s with st := .idle, fph := .fwdAck, waitT := 0 } :=
    { st := .inr (by simp), fph := .inr (by simp) }
  enterIdle.trans ((rearm_processed _).trans (refreshIdle_processed _))

theorem dropToIdle_processed (e : EndpointError) (s : State) : Processed s (dropToIdle e s) :=
  (raise_processed e s).trans (toIdle_processed _)

theorem enterPhase_processed {f : Fph} (hf : f ≠ .unused3) (s : State) : Processed s (enterPhase f s) :=
  have enter : Processed s { s with fph := f, waitT := waitLoad s.cfg } := { fph := .inr hf }
  enter.trans (rearm_processed _)

/-! ### The actions of the packets -/

theorem claim_processed (hop : Byte) (s : State) : Processed s (claim hop s) := by
  unfold claim
  refine Processed.trans ?_ (toIdle_processed _)
  split
  · exact (emit_processed .up _ s).trans (emit_processed .dn _ _)
  · exact (emit_processed .up _ s).trans {}

theorem echo_processed (hop : Byte) (s : State) : Processed s (echo hop s) :=
  (emit_processed _ _ s).trans (toIdle_processed _)

theorem forwardPing_processed (p : List Byte) (s : State) : Processed s (forwardPing p s) :=
  (emit_processed _ _ s).trans (toIdle_processed _)

theorem pingUp_processed (p : List Byte) (hop : Byte) (target : BoardId) (s : State) :
    Processed s (pingUp p hop target s) := by
  unfold pingUp
  split
  · exact claim_processed hop s
  · split
    · exact echo_processed hop s
    · exact forwardPing_processed p s

theorem openOwned_processed (op : Xop) (hop : Byte) (s : State) : Processed s (openOwned op hop s) :=
  (emit_processed .up _ s).trans
    (Processed.trans { st := .inr (by simp) } (rearm_processed _))

theorem openRelayed_processed (op : Xop) (p : List Byte) (target : BoardId) (s : State) :
    Processed s (openRelayed op p target s) :=
  (emit_processed .dn p s).trans
    (Processed.trans { st := .inr (by simp), fph := .inr (by simp) } (rearm_processed _))

theorem openExchange_processed (op : Xop) (p : List Byte) (hop : Byte) (target : BoardId) (s : State) :
    Processed s (openExchange op p hop target s) := by
  unfold openExchange
  split
  · exact openOwned_processed op hop s
  · exact openRelayed_processed op p target s

theorem memoryBody_processed (b : BodyRec) (s : State) : Processed s (memoryBody b s) := by
  unfold memoryBody
  simp only
  split
  · split
    · exact Processed.trans {} (toIdle_processed _)
    · exact (emit_processed _ _ s).trans (toIdle_processed _)
  · exact dropToIdle_processed _ s

theorem checkTarget_processed {act : State → State} (target : BoardId) (hact : ∀ s, Processed s (act s))
    (s : State) : Processed s (checkTarget target act s) := by
  unfold checkTarget
  split
  · exact hact s
  · exact dropToIdle_processed _ s

/-! ### Reception -/

section Reception

variable {p : List Byte} {act idleAct ackAct : State → State} {s t : State}

theorem procUpHeader_processed (hact : ∀ s, Processed s (act s)) (s : State) :
    Processed s (procUpHeader p act s) := by
  unfold procUpHeader
  split
  · exact hact s
  · exact (raise_processed _ s).trans (refreshIdle_processed _)

theorem preempt_processed (hact : ∀ s, Processed s (act s)) (s : State) :
    Processed s (preempt p act s) := by
  unfold preempt
  split
  · exact (dropToIdle_processed _ s).trans (procUpHeader_processed hact _)
  · exact raise_processed _ s

theorem recvUpHeader_processed (hact : ∀ s, Processed s (act s)) (h : recvUpHeader p act s = .next t) :
    Processed s t := by
  rcases recvUpHeader_cases h with ⟨-, ho⟩ | ⟨-, ho⟩ | ⟨-, ho⟩
  · cases ho; exact procUpHeader_processed hact s
  · cases ho; exact preempt_processed hact s
  · cases ho

theorem recvDnHeader_processed (hidle : ∀ s, Processed s (idleAct s)) (hack : ∀ s, Processed s (ackAct s))
    (h : recvDnHeader p idleAct ackAct s = .next t) : Processed s t := by
  rcases recvDnHeader_cases h with ⟨-, ho⟩ | ⟨-, ho⟩ | ⟨-, ho⟩
  · cases ho
    unfold downHeader
    split
    · exact hidle s
    · exact (raise_processed _ s).trans (refreshIdle_processed _)
  · cases ho
    unfold fwdAckHeader
    split
    · exact hack s
    · exact raise_processed _ s
  · cases ho

theorem recvRequest_processed {rx : Link} {code : Byte} (hact : ∀ s, Processed s (act s))
    (h : recvRequest rx p code act s = .next t) : Processed s t := by
  cases rx with
  | up => exact recvUpHeader_processed hact h
  | dn =>
    exact recvDnHeader_processed
      (fun s => (raise_processed _ s).trans (refreshIdle_processed _)) (raise_processed _) h

theorem fwdBody_processed (p : List Byte) (s : State) : Processed s (fwdBody p s) := by
  unfold fwdBody
  split
  · refine (emit_processed .dn p s).trans ?_
    simp only
    split
    · exact toIdle_processed _
    · exact enterPhase_processed (by simp) _
  · exact raise_processed _ s

theorem recvBody_processed {rx : Link} (hact : ∀ s, Processed s (act s))
    (h : recvBody rx p act s = .next t) : Processed s t := by
  rcases recvBody_cases h with ⟨-, -, ho⟩ | ⟨-, -, ho⟩ | ⟨-, -, ho⟩ | ho
  · cases ho
    unfold ownerBody
    split
    · exact hact s
    · exact raise_processed _ s
  · cases ho; exact fwdBody_processed p s
  · cases ho
    unfold fwdReply
    split
    · exact (emit_processed .up p s).trans (toIdle_processed _)
    · exact raise_processed _ s
  · cases ho

end Reception

theorem exec_processed {i : Instr} {s t : State} (h : exec i s = .next t) : Processed s t := by
  cases i with
  | ack rx hop csum target =>
    cases rx with
    | up => exact recvUpHeader_processed toIdle_processed h
    | dn =>
      exact recvDnHeader_processed
        (fun s => (emit_processed .up _ s).trans (refreshIdle_processed _))
        (fun s => (emit_processed .up _ s).trans (enterPhase_processed (by simp) _)) h
  | ping rx hop csum target => exact recvRequest_processed (pingUp_processed _ hop target) h
  | read rx hop csum target => exact recvRequest_processed (openExchange_processed .read _ hop target) h
  | write rx hop csum target => exact recvRequest_processed (openExchange_processed .write _ hop target) h
  | exec rx hop csum target => exact recvRequest_processed toIdle_processed h
  | bodyMem rx csum target offset payload =>
    exact recvBody_processed (checkTarget_processed target (memoryBody_processed _)) h
  | bodySens rx csum target offset payload =>
    exact recvBody_processed (checkTarget_processed target (dropToIdle_processed _)) h
  | bodyCode rx csum target offset payload =>
    exact recvBody_processed (checkTarget_processed target (dropToIdle_processed _)) h

theorem procPacket_processed {l : Link} {f : Format} {p : List Byte} {s t : State}
    (h : procPacket l f p s = .next t) : Processed s t := by
  unfold procPacket at h
  split at h
  · exact exec_processed h
  · cases l with
    | up => exact recvUpHeader_processed (dropToIdle_processed _) h
    | dn => exact recvDnHeader_processed (dropToIdle_processed _) (dropToIdle_processed _) h
  · exact recvBody_processed (dropToIdle_processed _) h
  · cases h

/-! ### The events -/

theorem setFramer_evolves (l : Link) (f : Framer) (s : State) : Evolves s (s.setFramer l f) where

theorem serve_evolves {l : Link} {s t : State} (h : serve l s = .next t) : Evolves s t := by
  unfold serve at h
  simp only at h
  split at h
  · cases h; exact {}
  · exact (setFramer_evolves _ _ s).trans (procPacket_processed h).toEvolves

theorem serviceLoop_evolves (n : Nat) {s t : State} (h : serviceLoop n s = .next t) : Evolves s t := by
  induction n generalizing s with
  | zero => cases h; exact {}
  | succ n ih =>
    unfold serviceLoop at h
    split at h
    · cases h; exact {}
    · split at h
      · next hserve => exact (serve_evolves hserve).trans (ih h)
      · cases h
      · cases h

theorem storeByte_evolves (l : Link) (b : Byte) (s : State) : Evolves s (storeByte l b s) := by
  unfold storeByte
  simp only
  split
  · exact (raise_processed _ s).toEvolves
  · split
    · exact { st := .inr (by simp) }
    · exact setFramer_evolves _ _ s

theorem tickTimers_evolves (s : State) : Evolves s (tickTimers s) := by
  unfold tickTimers
  simp only
  split
  · split
    · split
      · exact { dnTx := List.prefix_append _ _ }
      · exact {}
    · exact {}
  · split
    · split
      · exact Evolves.trans {} (dropToIdle_processed _ _).toEvolves
      · exact {}
    · exact {}

theorem handle_evolves {e : Event} {s t : State} (hreset : e ≠ .reset) (hpower : e ≠ .powerOn)
    (h : handle e s = .next t) : Evolves s t := by
  cases e with
  | rxUp b => exact (storeByte_evolves .up b s).trans (serviceLoop_evolves 2 h)
  | rxDn b => exact (storeByte_evolves .dn b s).trans (serviceLoop_evolves 2 h)
  | tick => exact (tickTimers_evolves s).trans (serviceLoop_evolves 2 h)
  | reset => exact absurd rfl hreset
  | powerOn => exact absurd rfl hpower

/-- `Reset` and power-on clear `err` and keep all else that `Evolves` speaks of (70_reset R230, R231). -/
theorem handle_reset_evolves {e : Event} {s t : State} (he : e = .reset ∨ e = .powerOn)
    (h : handle e s = .next t) : Evolves { s with err := 0x00 } t := by
  have hst : St.idle ∉ reservedSts := by decide
  rcases he with rfl | rfl
  · cases h; exact { st := .inr hst, fph := .inr nofun }
  · cases h; exact { st := .inr hst, fph := .inr nofun }

/-- What a step does: nothing, or the oldest pending event (10_state R30). -/
theorem step_cases {s t : State} (h : step s = .next t) :
    t = s ∨ ∃ e rest, s.inputs = e :: rest ∧ handle e { s with inputs := rest } = .next t := by
  unfold step at h
  split at h
  · cases h; exact .inl rfl
  · next e rest hin => exact .inr ⟨e, rest, hin, h⟩

/-- Every step evolves the state, but that `Reset` and power-on clear `err`. -/
theorem step_evolves {s t : State} (h : step s = .next t) :
    Evolves s t ∨
      ((s.inputs.head? = some .reset ∨ s.inputs.head? = some .powerOn) ∧
        Evolves { s with err := 0x00 } t) := by
  rcases step_cases h with rfl | ⟨e, rest, hin, he⟩
  · exact .inl {}
  · have consume : Evolves s { s with inputs := rest } := {}
    have consume' : Evolves { s with err := 0x00 } { s with err := 0x00, inputs := rest } := {}
    by_cases hr : e = .reset ∨ e = .powerOn
    · exact .inr ⟨by simpa [hin] using hr, consume'.trans (handle_reset_evolves hr he)⟩
    · obtain ⟨hreset, hpower⟩ := not_or.mp hr
      exact .inl (consume.trans (handle_evolves hreset hpower he))

/-- What a step keeps whatever the event: all that `Evolves` says but of `err`. -/
theorem step_evolves_but_err {s t : State} (h : step s = .next t) : ∃ e, Evolves { s with err := e } t := by
  rcases step_evolves h with hev | ⟨-, hev⟩
  · exact ⟨s.err, hev⟩
  · exact ⟨0x00, hev⟩

/-- Settles O17: every operation an event is made of leaves `cfg` alone. -/
theorem noStepChangesAParameter : Obligations.NoStepChangesAParameter := fun _ _ h =>
  (step_evolves_but_err h).elim fun _ hev => hev.cfg

/-- Settles O18: the rules write only legal values to `st` and `fph`, so a reserved one was kept. -/
theorem reservedStatesAreNeverEntered : Obligations.ReservedStatesAreNeverEntered := by
  intro s t h
  obtain ⟨_, hev⟩ := step_evolves_but_err h
  exact ⟨fun hres => hev.st.resolve_right (absurd hres),
    fun hun => (hev.fph.resolve_right (absurd hun)).symm.trans hun⟩

/-- Settles O20: outside `Reset` and power-on `err` is only ever or-ed to. -/
theorem errorBitsAreSticky : Obligations.ErrorBitsAreSticky := by
  intro s t h hreset hpower
  rcases step_evolves h with hev | ⟨hhead | hhead, -⟩
  · exact hev.err
  · exact absurd hhead hreset
  · exact absurd hhead hpower

/-- Settles O21: the streams are only ever appended to. -/
theorem transmitStreamsOnlyGrow : Obligations.TransmitStreamsOnlyGrow := by
  intro s t h
  obtain ⟨_, hev⟩ := step_evolves_but_err h
  obtain ⟨u, hu⟩ := hev.upTx
  obtain ⟨d, hd⟩ := hev.dnTx
  exact ⟨⟨u, hu.symm⟩, ⟨d, hd.symm⟩⟩

end Sys2Proof.Machine

/-! ## The invariant in layers

An operation inside an event holds only part of the invariant: before `rearm` the framers need not be armed, and
before `refresh_idle` Idle and AwaitingHeader need not say what the framers hold. -/

namespace Sys2Proof.Machine

/-- No framer holds more than it is armed for (10_state R25). -/
def FramersFit (s : State) : Prop := s.up.cnt ≤ needBytes s.up.need ∧ s.dn.cnt ≤ needBytes s.dn.need

/-- The part of the invariant that speaks of neither `st` nor `fph`, nor of what an exchange sets. -/
structure BaseInv (s : State) : Prop where
  config : ConfigOk s.cfg
  fit : FramersFit s
  settle_le : s.settle ≤ s.cfg.settleTicks
  pend_settle : s.pendDn ≠ none → 0 < s.settle
  pend_length : ∀ q ∈ s.pendDn, q.length = 15
  memory : MemoryLegal s

/-- What `rearm` starts from. -/
structure UnarmedInv (s : State) : Prop where
  config : ConfigOk s.cfg
  sequencer : LegalSequencer s
  fit : FramersFit s
  timers : TimersLegal s
  exchange : ExchangeLegal s
  memory : MemoryLegal s

/-- What `rearm` leaves, and what a packet's processing starts from. -/
structure ArmedInv (s : State) : Prop extends UnarmedInv s where
  armed : FramersArmed s

/-- What holds between two passes of the service loop: all of the invariant but that no packet waits. -/
structure LoopInv (s : State) : Prop extends ArmedInv s where
  idle : IdleMeaning s

theorem endpointInv_iff (s : State) :
    EndpointInv s ↔ LoopInv s ∧ (s.settle = 0 → s.up.complete = false ∧ s.dn.complete = false) := by
  constructor
  · rintro ⟨config, sequencer, armed, ⟨fit, served⟩, idle, timers, exchange, memory⟩
    exact ⟨{ config, sequencer, armed, fit, idle, timers, exchange, memory }, served⟩
  · rintro ⟨h, served⟩
    exact ⟨h.config, h.sequencer, h.armed, ⟨h.fit, served⟩, h.idle, h.timers, h.exchange, h.memory⟩

theorem ConfigOk.memInit_legal {c : Config} (h : ConfigOk c) :
    Memory.wf c.memInit = true ∧ Memory.within c.memInit c.memBytes = true := by
  obtain ⟨-, -, -, -, hinit, -⟩ := h
  exact hinit

theorem ConfigOk.waitTimeout_ne {c : Config} (h : ConfigOk c) : c.waitTimeout ≠ some 0 := by
  obtain ⟨-, -, -, -, -, hwait⟩ := h
  exact hwait

theorem UnarmedInv.toBaseInv {s : State} (h : UnarmedInv s) : BaseInv s := by
  obtain ⟨hle, -, hpend, hlen, -, -⟩ := h.timers
  exact ⟨h.config, h.fit, hle, fun hq => (hpend hq).1, hlen, h.memory⟩

theorem BaseInv.pendDn_none {s : State} (h : BaseInv s) (hs : s.settle = 0) : s.pendDn = none := by
  by_contra hq
  have := h.pend_settle hq
  omega

/-! ### The modes -/

theorem mode_of_resting {s : State} (h : s.st = .idle ∨ s.st = .awaitingHeader) : s.mode = .headers := by
  rcases h with h | h <;> simp [State.mode, rxMode, h]

theorem mode_ownerBody_iff (s : State) : s.mode = .ownerBody ↔ s.st = .awaitingBody := by
  unfold State.mode
  cases s.st <;> cases s.fph <;> simp [rxMode]

theorem forwarding_of_mode {s : State} (h : s.mode = .fwdAck ∨ s.mode = .fwdBody ∨ s.mode = .fwdReply) :
    s.st = .forwarding := by
  revert h
  unfold State.mode
  cases s.st <;> simp [rxMode]

theorem mode_of_forwarding {s : State} (h : s.st = .forwarding) : s.mode ≠ .headers ∧ s.mode ≠ .ownerBody := by
  unfold State.mode
  rw [h]
  cases s.fph <;> simp [rxMode]

/-- A phase other than FWD_ACK is held only while Forwarding, so where Headers are received it is FWD_ACK. -/
theorem fph_of_headers {s : State} (h : LegalSequencer s) (hm : s.mode = .headers) : s.fph = .fwdAck := by
  by_contra hne
  exact (mode_of_forwarding (h.2.2 hne)).1 hm

/-- Outside the modes that receive Headers neither Idle nor AwaitingHeader is held. -/
theorem idleMeaning_of_not_headers {s : State} (h : s.mode ≠ .headers) : IdleMeaning s :=
  ⟨fun hst => absurd (mode_of_resting (.inl hst)) h, fun hst => absurd (mode_of_resting (.inr hst)) h⟩

/-- The exchange registers mean nothing where Headers are received (10_state R24). -/
theorem exchangeLegal_of_headers {s : State} (h : s.mode = .headers) : ExchangeLegal s := by
  refine ⟨fun hst => ?_, fun hst => absurd h (mode_of_forwarding hst).1, fun hm => ?_⟩
  · cases h.symm.trans ((mode_ownerBody_iff s).mpr hst)
  · cases h.symm.trans hm

theorem ArmedInv.loopInv {s : State} (h : ArmedInv s) (hm : s.mode ≠ .headers) : LoopInv s :=
  ⟨h, idleMeaning_of_not_headers hm⟩

/-! ### What keeps each layer -/

theorem raise_armedInv {s : State} (e : EndpointError) (h : ArmedInv s) : ArmedInv (raise e s) :=
  ⟨⟨h.config, h.sequencer, h.fit, h.timers, h.exchange, h.memory⟩, h.armed⟩

theorem emit_armedInv {s : State} (l : Link) (p : List Byte) (h : ArmedInv s) : ArmedInv (emit l p s) :=
  ⟨⟨h.config, h.sequencer, h.fit, h.timers, h.exchange, h.memory⟩, h.armed⟩

theorem raise_baseInv {s : State} (e : EndpointError) (h : BaseInv s) : BaseInv (raise e s) :=
  ⟨h.config, h.fit, h.settle_le, h.pend_settle, h.pend_length, h.memory⟩

theorem emit_baseInv {s : State} (l : Link) (p : List Byte) (h : BaseInv s) : BaseInv (emit l p s) :=
  ⟨h.config, h.fit, h.settle_le, h.pend_settle, h.pend_length, h.memory⟩

theorem setFramer_armedInv {s : State} {l : Link} {f : Framer} (h : ArmedInv s)
    (hneed : f.need = (s.framer l).need) (hfit : f.cnt ≤ needBytes f.need) :
    ArmedInv (s.setFramer l f) := by
  cases l with
  | up =>
    exact ⟨⟨h.config, h.sequencer, ⟨hfit, h.fit.2⟩, h.timers, h.exchange, h.memory⟩,
      ⟨hneed.trans h.armed.1, h.armed.2⟩⟩
  | dn =>
    exact ⟨⟨h.config, h.sequencer, ⟨h.fit.1, hfit⟩, h.timers, h.exchange, h.memory⟩,
      ⟨h.armed.1, hneed.trans h.armed.2⟩⟩

theorem rearmed_fits {f : Framer} (n : Option Format) (h : f.cnt ≤ needBytes f.need) :
    (rearmed n f).cnt ≤ needBytes (rearmed n f).need := by
  rcases rearmed_kept_or_empty n f with he | he
  · rwa [he]
  · simp [Framer.cnt, he]

/-- `rearm()` arms the framers and keeps all else. -/
theorem rearm_armedInv {s : State} (h : UnarmedInv s) : ArmedInv (rearm s) := by
  rw [rearm_eq]
  exact {
    config := h.config
    sequencer := h.sequencer
    fit := ⟨rearmed_fits _ h.fit.1, rearmed_fits _ h.fit.2⟩
    timers := h.timers
    exchange := h.exchange
    memory := h.memory
    armed := ⟨rearmed_need _ _, rearmed_need _ _⟩ }

/-- `refresh_idle()` gives Idle and AwaitingHeader their meaning and keeps all else. -/
theorem refreshIdle_loopInv {s : State} (h : ArmedInv s) : LoopInv (refreshIdle s) := by
  by_cases hm : s.mode = .headers
  · rw [refreshIdle_of_headers hm]
    have hack := fph_of_headers h.sequencer hm
    have hrest := restingSt_cases s.up s.dn
    have hst : restingSt s.up s.dn = .idle ∨ restingSt s.up s.dn = .awaitingHeader :=
      hrest.elim (fun h => .inr h.1) (fun h => .inl h.1)
    have hmode : State.mode { s with st := restingSt s.up s.dn } = s.mode := by
      rw [hm]; exact mode_of_resting hst
    exact {
      config := h.config
      sequencer := ⟨by rcases hst with e | e <;> simp [e], h.sequencer.2.1, fun hne => absurd hack hne⟩
      fit := h.fit
      timers := by have := h.timers; simp only [TimersLegal, hmode] at this ⊢; exact this
      exchange := exchangeLegal_of_headers (hmode.trans hm)
      memory := h.memory
      armed := by have := h.armed; simp only [FramersArmed, hmode] at this ⊢; exact this
      idle := by
        rcases hrest with ⟨e, hcnt⟩ | ⟨e, hcnt⟩
        · exact ⟨fun e' => absurd (e.symm.trans e') nofun, fun _ => hcnt⟩
        · exact ⟨fun _ => hcnt, fun e' => absurd (e.symm.trans e') nofun⟩ }
  · rw [refreshIdle_of_not_headers hm]
    exact h.loopInv hm

/-- `to_idle()` ends any phase: what it needs of the state speaks of no phase. -/
theorem toIdle_loopInv {s : State} (h : BaseInv s) : LoopInv (toIdle s) := by
  refine refreshIdle_loopInv (rearm_armedInv ?_)
  exact {
    config := h.config
    sequencer := ⟨by simp, by simp, fun hne => absurd rfl hne⟩
    fit := h.fit
    timers := ⟨h.settle_le, fun _ => .inl rfl, fun hq => ⟨h.pend_settle hq, rfl⟩, h.pend_length,
      Nat.zero_le _, ⟨fun _ => .inl rfl, fun _ => rfl⟩⟩
    exchange := exchangeLegal_of_headers rfl
    memory := h.memory }

theorem dropToIdle_loopInv {s : State} (e : EndpointError) (h : BaseInv s) : LoopInv (dropToIdle e s) :=
  toIdle_loopInv (raise_baseInv e h)

@[simp] theorem toIdle_settle (s : State) : (toIdle s).settle = s.settle := by rw [toIdle_eq]

@[simp] theorem toIdle_mode (s : State) : (toIdle s).mode = .headers := by
  rw [toIdle_eq]
  refine mode_of_resting ?_
  rcases restingSt_cases (rearmed (some .header) s.up) (rearmed (some .header) s.dn) with ⟨h, -⟩ | ⟨h, -⟩
  · exact .inr h
  · exact .inl h

/-- `WAIT_TIMEOUT` is never `some 0`, so a load of 0 means that there is no timeout (60_exceptions R215). -/
theorem waitLoad_eq_zero_iff {c : Config} (h : ConfigOk c) : waitLoad c = 0 ↔ c.waitTimeout = none := by
  have hne := h.waitTimeout_ne
  unfold waitLoad
  cases hw : c.waitTimeout with
  | none => simp
  | some n =>
    have : n ≠ 0 := by rintro rfl; exact hne hw
    simpa using this

/-- The timers of an exchange that was just opened or has entered its next phase: nothing is pending, the wait
is loaded, and only an owner may settle (41_header_ops R132, R133; 43_relay R171, R173). -/
theorem timersLegal_of_loaded {s : State} (hc : ConfigOk s.cfg) (hm : s.mode ≠ .headers)
    (hw : s.waitT = waitLoad s.cfg) (hle : s.settle ≤ s.cfg.settleTicks) (hq : s.pendDn = none)
    (hs : 0 < s.settle → s.mode = .ownerBody) : TimersLegal s := by
  refine ⟨hle, fun h => .inr (hs h), fun h => absurd hq h, by simp [hq], hw.le, ?_⟩
  rw [hw, waitLoad_eq_zero_iff hc]
  exact ⟨.inr, fun h => h.resolve_left hm⟩

/-! ### The actions of the packets -/

/-- The action `act` of a packet that completed in mode `m` restores the invariant of the service loop. -/
def KeepsInv (m : RxMode) (act : State → State) : Prop :=
  ∀ s, ArmedInv s → s.settle = 0 → s.mode = m → LoopInv (act s)

theorem toIdle_keepsInv (m : RxMode) : KeepsInv m toIdle := fun _ h _ _ => toIdle_loopInv h.toBaseInv

theorem dropToIdle_keepsInv (m : RxMode) (e : EndpointError) : KeepsInv m (dropToIdle e) :=
  fun _ h _ _ => dropToIdle_loopInv e h.toBaseInv

theorem raise_keepsInv {m : RxMode} (hm : m ≠ .headers) (e : EndpointError) : KeepsInv m (raise e) :=
  fun _ h _ hmode => (raise_armedInv e h).loopInv (by simpa [hmode] using hm)

theorem refreshIdle_raise_keepsInv (m : RxMode) (e : EndpointError) :
    KeepsInv m fun s => refreshIdle (raise e s) :=
  fun _ h _ _ => refreshIdle_loopInv (raise_armedInv e h)

@[simp] theorem genHeader_length (c : Config) (h : HeaderRec) : (genHeader c h).length = 15 := by
  simp [genHeader]

theorem claim_keepsInv (m : RxMode) (hop : Byte) : KeepsInv m (claim hop) := by
  intro s h hs _
  unfold claim
  refine toIdle_loopInv ?_
  have hb := h.toBaseInv
  split
  · exact emit_baseInv _ _ (emit_baseInv _ _ hb)
  · next hticks =>
    exact {
      config := hb.config
      fit := hb.fit
      settle_le := le_rfl
      pend_settle := fun _ => Nat.pos_of_ne_zero hticks
      pend_length := fun q hq => by cases hq; exact genHeader_length _ _
      memory := hb.memory }

theorem pingUp_keepsInv (m : RxMode) (p : List Byte) (hop : Byte) (target : BoardId) :
    KeepsInv m (pingUp p hop target) := by
  intro s h hs hm
  unfold pingUp
  split
  · exact claim_keepsInv m hop s h hs hm
  · split
    · exact toIdle_loopInv (emit_baseInv _ _ h.toBaseInv)
    · exact toIdle_loopInv (emit_baseInv _ _ h.toBaseInv)

theorem openOwned_keepsInv (op : Xop) (hop : Byte) : KeepsInv .headers (openOwned op hop) := by
  intro s h hs hm
  have hfph := fph_of_headers h.sequencer hm
  unfold openOwned
  refine (rearm_armedInv ?_).loopInv ?_
  · exact {
      config := h.config
      sequencer := ⟨by simp, h.sequencer.2.1, fun hne => absurd hfph hne⟩
      fit := h.fit
      timers := timersLegal_of_loaded h.config (by simp [State.mode, rxMode]) rfl le_rfl
        (h.toBaseInv.pendDn_none hs) fun _ => rfl
      exchange := ⟨fun _ => rfl, nofun, nofun⟩
      memory := h.memory }
  · rw [rearm_eq]; simp [State.mode, rxMode]

theorem openRelayed_keepsInv (op : Xop) (p : List Byte) {target : BoardId} {s : State}
    (htarget : target ≠ s.cfg.ownId) (h : ArmedInv s) (hs : s.settle = 0) :
    LoopInv (openRelayed op p target s) := by
  unfold openRelayed
  refine (rearm_armedInv ?_).loopInv ?_
  · exact {
      config := h.config
      sequencer := ⟨by simp, by simp, fun hne => absurd rfl hne⟩
      fit := h.fit
      timers := timersLegal_of_loaded h.config (by simp [State.mode, rxMode]) rfl h.timers.1
        (h.toBaseInv.pendDn_none hs) fun hpos => absurd hs hpos.ne'
      exchange := ⟨nofun, fun _ => htarget, nofun⟩
      memory := h.memory }
  · rw [rearm_eq]; simp [State.mode, rxMode]

theorem openExchange_keepsInv (op : Xop) (p : List Byte) (hop : Byte) (target : BoardId) :
    KeepsInv .headers (openExchange op p hop target) := by
  intro s h hs hm
  unfold openExchange
  split
  · exact openOwned_keepsInv op hop s h hs hm
  · next htarget => exact openRelayed_keepsInv op p htarget h hs

/-- The next phase of a relay that is Forwarding. FWD_REPLY is entered in a Read exchange only. -/
theorem enterPhase_loopInv {f : Fph} {s : State} (h : ArmedInv s) (hs : s.settle = 0)
    (hst : s.st = .forwarding) (hf : f ≠ .unused3) (hread : f = .fwdReply → s.xop = .read) :
    LoopInv (enterPhase f s) := by
  have hmode : rxMode s.st f ≠ .headers := by rw [hst]; cases f <;> simp [rxMode]
  unfold enterPhase
  refine (rearm_armedInv ?_).loopInv ?_
  · exact {
      config := h.config
      sequencer := ⟨by simp [hst], by cases f <;> simp at hf ⊢, fun _ => hst⟩
      fit := h.fit
      timers := timersLegal_of_loaded h.config hmode rfl h.timers.1
        (h.toBaseInv.pendDn_none hs) fun hpos => absurd hs hpos.ne'
      exchange := by
        refine ⟨fun e => absurd (hst.symm.trans e) nofun, h.exchange.2.1, fun e => hread ?_⟩
        simp only [State.mode, hst] at e
        cases f <;> simp [rxMode] at e ⊢
      memory := h.memory }
  · rw [rearm_eq]; exact hmode

/-- A Body's block lies inside `MEM`, so a payload of at most a block's length does too (20_memory R55). -/
theorem writeBlock_loopInv {s : State} {addr : Nat} {payload : List Byte} (h : BaseInv s)
    (hrange : inRange s.cfg addr = true) (hlen : payload.length ≤ payloadSize) :
    LoopInv (writeBlock addr payload s) := by
  have hend : addr + payload.length ≤ s.cfg.memBytes := by
    have : addr + payloadSize ≤ s.cfg.memBytes := by simpa [inRange] using hrange
    omega
  obtain ⟨hwf, hwithin⟩ := h.memory
  exact toIdle_loopInv {
    config := h.config
    fit := h.fit
    settle_le := h.settle_le
    pend_settle := h.pend_settle
    pend_length := h.pend_length
    memory := ⟨wf_memWrite addr payload hwf, within_memWrite hend hwithin⟩ }

theorem memoryBody_keepsInv (m : RxMode) {b : BodyRec} (hb : b.WellFormed) : KeepsInv m (memoryBody b) := by
  intro s h _ _
  unfold memoryBody
  simp only
  split
  · next hrange =>
    split
    · exact writeBlock_loopInv h.toBaseInv hrange hb.le
    · exact toIdle_loopInv (emit_baseInv _ _ h.toBaseInv)
  · exact dropToIdle_loopInv _ h.toBaseInv

theorem checkTarget_keepsInv {m : RxMode} {act : State → State} (target : BoardId) (hact : KeepsInv m act) :
    KeepsInv m (checkTarget target act) := by
  intro s h hs hm
  unfold checkTarget
  split
  · exact hact s h hs hm
  · exact dropToIdle_loopInv _ h.toBaseInv

/-! ### Reception -/

section Reception

variable {p : List Byte} {act idleAct ackAct : State → State} {s t : State}

theorem procUpHeader_keepsInv (hact : KeepsInv .headers act) : KeepsInv .headers (procUpHeader p act) := by
  intro s h hs hm
  unfold procUpHeader
  split
  · exact hact s h hs hm
  · exact refreshIdle_raise_keepsInv _ _ s h hs hm

/-- Preemption first ends the relay, so the new Header's action runs where Headers are received. -/
theorem preempt_keepsInv {m : RxMode} (hm : m ≠ .headers) (hact : KeepsInv .headers act) :
    KeepsInv m (preempt p act) := by
  intro s h hs hmode
  unfold preempt
  split
  · have hdrop := dropToIdle_loopInv (.abort .preempted) h.toBaseInv
    exact procUpHeader_keepsInv hact _ hdrop.toArmedInv (by simpa [dropToIdle] using hs) (toIdle_mode _)
  · exact raise_keepsInv hm _ s h hs hmode

theorem recvUpHeader_loopInv (hact : KeepsInv .headers act) (h : ArmedInv s) (hs : s.settle = 0)
    (ho : recvUpHeader p act s = .next t) : LoopInv t := by
  rcases recvUpHeader_cases ho with ⟨hm, e⟩ | ⟨hm | hm, e⟩ | ⟨-, e⟩
  · cases e; exact procUpHeader_keepsInv hact s h hs hm
  · cases e; exact preempt_keepsInv (by simp) hact s h hs hm
  · cases e; exact preempt_keepsInv (by simp) hact s h hs hm
  · cases e

theorem recvDnHeader_loopInv (hidle : KeepsInv .headers idleAct) (hack : KeepsInv .fwdAck ackAct)
    (h : ArmedInv s) (hs : s.settle = 0) (ho : recvDnHeader p idleAct ackAct s = .next t) : LoopInv t := by
  rcases recvDnHeader_cases ho with ⟨hm, e⟩ | ⟨hm, e⟩ | ⟨-, e⟩
  · cases e
    unfold downHeader
    split
    · exact hidle s h hs hm
    · exact refreshIdle_raise_keepsInv _ _ s h hs hm
  · cases e
    unfold fwdAckHeader
    split
    · exact hack s h hs hm
    · exact raise_keepsInv (by simp) _ s h hs hm
  · cases e

theorem recvRequest_loopInv {rx : Link} {code : Byte} (hact : KeepsInv .headers act) (h : ArmedInv s)
    (hs : s.settle = 0) (ho : recvRequest rx p code act s = .next t) : LoopInv t := by
  cases rx with
  | up => exact recvUpHeader_loopInv hact h hs ho
  | dn =>
    exact recvDnHeader_loopInv (refreshIdle_raise_keepsInv _ _) (raise_keepsInv (by simp) _) h hs ho

theorem fwdBody_keepsInv : KeepsInv .fwdBody (fwdBody p) := by
  intro s h hs hm
  unfold fwdBody
  split
  · simp only
    split
    · exact toIdle_loopInv (emit_baseInv _ _ h.toBaseInv)
    · next hread =>
      exact enterPhase_loopInv (emit_armedInv _ _ h) hs (forwarding_of_mode (.inr (.inl hm))) (by simp)
        fun _ => hread
  · exact raise_keepsInv (by simp) _ s h hs hm

theorem recvBody_loopInv {rx : Link} (hact : KeepsInv .ownerBody act) (h : ArmedInv s)
    (hs : s.settle = 0) (ho : recvBody rx p act s = .next t) : LoopInv t := by
  rcases recvBody_cases ho with ⟨-, hm, e⟩ | ⟨-, hm, e⟩ | ⟨-, hm, e⟩ | e
  · cases e
    unfold ownerBody
    split
    · exact hact s h hs hm
    · exact raise_keepsInv (by simp) _ s h hs hm
  · cases e; exact fwdBody_keepsInv s h hs hm
  · cases e
    unfold fwdReply
    split
    · exact toIdle_loopInv (emit_baseInv _ _ h.toBaseInv)
    · exact raise_keepsInv (by simp) _ s h hs hm
  · cases e

end Reception

theorem exec_loopInv {i : Instr} {s t : State} (hi : i.WellFormed) (h : ArmedInv s) (hs : s.settle = 0)
    (ho : exec i s = .next t) : LoopInv t := by
  cases i with
  | ack rx hop csum target =>
    cases rx with
    | up => exact recvUpHeader_loopInv (toIdle_keepsInv _) h hs ho
    | dn =>
      exact recvDnHeader_loopInv
        (fun _ h _ _ => refreshIdle_loopInv (emit_armedInv _ _ h))
        (fun _ h hs hm => enterPhase_loopInv (emit_armedInv _ _ h) hs (forwarding_of_mode (.inl hm))
          (by simp) (by simp)) h hs ho
  | ping rx hop csum target => exact recvRequest_loopInv (pingUp_keepsInv _ _ hop target) h hs ho
  | read rx hop csum target => exact recvRequest_loopInv (openExchange_keepsInv .read _ hop target) h hs ho
  | write rx hop csum target => exact recvRequest_loopInv (openExchange_keepsInv .write _ hop target) h hs ho
  | exec rx hop csum target => exact recvRequest_loopInv (toIdle_keepsInv _) h hs ho
  | bodyMem rx csum target offset payload =>
    have hb : payload.length = 512 := (wellFormed_bodyMem ..).mp hi
    exact recvBody_loopInv (checkTarget_keepsInv target (memoryBody_keepsInv _ hb)) h hs ho
  | bodySens rx csum target offset payload =>
    exact recvBody_loopInv (checkTarget_keepsInv target (dropToIdle_keepsInv _ _)) h hs ho
  | bodyCode rx csum target offset payload =>
    exact recvBody_loopInv (checkTarget_keepsInv target (dropToIdle_keepsInv _ _)) h hs ho

/-- A decoded packet has its format's length, so a decoded Body's payload has 512 bytes (30_encoding R81). -/
theorem decode_wellFormed {om : OpcodeMap} {km : KindMap} {rx : Link} {f : Format} {p : List Byte}
    {i : Instr} (h : decode om km rx f p = .instr i) : i.WellFormed := by
  unfold decode at h
  split at h
  · next hlen =>
    cases f with
    | header =>
      simp only [decodeHeaderInstr] at h
      split at h <;> cases h <;> exact wellFormed_of_header rfl
    | body =>
      have hpay : (decodeBody p).payload.length = 512 := by
        simp [decodeBody, hlen, Format.size]
      simp only [decodeBodyInstr] at h
      split at h
      · cases h; exact (wellFormed_bodyMem ..).mpr hpay
      · cases h; exact (wellFormed_bodySens ..).mpr hpay
      · cases h; exact (wellFormed_bodyCode ..).mpr hpay
      · cases h
  · cases h

theorem procPacket_loopInv {l : Link} {f : Format} {p : List Byte} {s t : State} (h : ArmedInv s)
    (hs : s.settle = 0) (ho : procPacket l f p s = .next t) : LoopInv t := by
  unfold procPacket at ho
  split at ho
  · next hdec => exact exec_loopInv (decode_wellFormed hdec) h hs ho
  · cases l with
    | up => exact recvUpHeader_loopInv (dropToIdle_keepsInv _ _) h hs ho
    | dn => exact recvDnHeader_loopInv (dropToIdle_keepsInv _ _) (dropToIdle_keepsInv _ _) h hs ho
  · exact recvBody_loopInv (dropToIdle_keepsInv _ _) h hs ho
  · cases ho

/-! ### The service loop -/

theorem serve_loopInv {l : Link} {s t : State} (h : LoopInv s) (hl : nextServed s = some l)
    (ho : serve l s = .next t) : LoopInv t := by
  obtain ⟨hs, hc⟩ := nextServed_some hl
  obtain ⟨fmt, hneed, hserve⟩ := serve_of_complete hc
  have harmed : ArmedInv (s.setFramer l ⟨some fmt, []⟩) :=
    setFramer_armedInv h.toArmedInv hneed.symm (Nat.zero_le _)
  exact procPacket_loopInv harmed hs (hserve.symm.trans ho)

theorem serviceLoop_loopInv (n : Nat) {s t : State} (h : LoopInv s) (ho : serviceLoop n s = .next t) :
    LoopInv t := by
  induction n generalizing s with
  | zero => cases ho; exact h
  | succ n ih =>
    unfold serviceLoop at ho
    split at ho
    · cases ho; exact h
    · next hl =>
      split at ho
      · next hserve => exact ih (serve_loopInv h hl hserve) ho
      · cases ho
      · cases ho

/-- How many packets wait in the framers. -/
def waiting (s : State) : Nat := s.up.complete.toNat + s.dn.complete.toNat

theorem complete_le_of_kept_or_empty {f g : Framer} (h : g = f ∨ g.got = []) :
    g.complete.toNat ≤ f.complete.toNat := by
  rcases h with rfl | h
  · exact le_rfl
  · simp [complete_of_got_nil h]

/-- Each pass of the loop takes a packet out of a framer and puts none in (41_header_ops R125). -/
theorem serve_waiting_lt {l : Link} {s t : State} (hl : nextServed s = some l)
    (ho : serve l s = .next t) : waiting t < waiting s := by
  obtain ⟨-, hc⟩ := nextServed_some hl
  obtain ⟨fmt, -, hserve⟩ := serve_of_complete hc
  have hp := procPacket_processed (hserve.symm.trans ho)
  have hup := complete_le_of_kept_or_empty hp.up
  have hdn := complete_le_of_kept_or_empty hp.dn
  have hnil : (Framer.mk (some fmt) []).complete = false := complete_of_got_nil rfl
  cases l with
  | up =>
    simp only [setFramer_up_up, setFramer_up_dn, framer_up, hnil, Bool.toNat_false] at hup hdn hc
    simp only [waiting, hc, Bool.toNat_true]
    omega
  | dn =>
    simp only [setFramer_dn_up, setFramer_dn_dn, framer_dn, hnil, Bool.toNat_false] at hup hdn hc
    simp only [waiting, hc, Bool.toNat_true]
    omega

/-- As many passes as packets wait reach the loop's end (41_header_ops R125, log 16). -/
theorem serviceLoop_nextServed (n : Nat) {s t : State} (hn : waiting s ≤ n)
    (ho : serviceLoop n s = .next t) : nextServed t = none := by
  induction n generalizing s with
  | zero =>
    cases ho
    by_contra hne
    obtain ⟨l, hl⟩ := Option.ne_none_iff_exists'.mp hne
    obtain ⟨-, hc⟩ := nextServed_some hl
    cases l <;> simp_all [waiting]
  | succ n ih =>
    unfold serviceLoop at ho
    split at ho
    · next hnone => cases ho; exact hnone
    · next hl =>
      split at ho
      · next hserve =>
        have := serve_waiting_lt hl hserve
        exact ih (by omega) ho
      · cases ho
      · cases ho

theorem service_nextServed {s t : State} (ho : service s = .next t) : nextServed t = none := by
  refine serviceLoop_nextServed 2 ?_ ho
  have hu := Bool.toNat_le s.up.complete
  have hd := Bool.toNat_le s.dn.complete
  simp only [waiting]
  omega

theorem service_endpointInv {s t : State} (h : LoopInv s) (ho : service s = .next t) : EndpointInv t := by
  refine (endpointInv_iff t).mpr ⟨serviceLoop_loopInv 2 h ho, fun hs => ?_⟩
  exact (nextServed_none (service_nextServed ho)).resolve_left (by omega)

/-! ### The events -/

/-- Storing a byte of a Header makes AwaitingHeader what `refresh_idle()` would say; elsewhere neither writes
`st` (41_header_ops R122). -/
theorem storeByte_eq_refreshIdle {s : State} {l : Link} (b : Byte) (harmed : FramersArmed s)
    (hfull : (s.framer l).full = false) :
    storeByte l b s = refreshIdle (s.setFramer l ⟨(s.framer l).need, (s.framer l).got ++ [b]⟩) := by
  unfold storeByte
  simp only [hfull, Bool.false_eq_true, if_false]
  by_cases hm : s.mode = .headers
  · have hneed : (s.framer l).need = some .header := by
      cases l with
      | up => rw [framer_up, harmed.1, hm]; rfl
      | dn => rw [framer_dn, harmed.2, hm]; rfl
    rw [refreshIdle_of_headers (by simpa using hm)]
    cases l <;> simp_all [restingSt, Framer.cnt]
  · rw [refreshIdle_of_not_headers (by simpa using hm)]
    split
    · contradiction
    · rfl

theorem storeByte_loopInv {s : State} (l : Link) (b : Byte) (h : LoopInv s) : LoopInv (storeByte l b s) := by
  by_cases hfull : (s.framer l).full = true
  · have : storeByte l b s = raise (.overrun l) s := by simp [storeByte, hfull]
    rw [this]
    exact ⟨raise_armedInv _ h.toArmedInv, h.idle⟩
  · have hroom : (s.framer l).full = false := by simpa using hfull
    have hfit : (s.framer l).cnt ≤ needBytes (s.framer l).need := by
      cases l with
      | up => exact h.fit.1
      | dn => exact h.fit.2
    rw [storeByte_eq_refreshIdle b h.armed hroom]
    refine refreshIdle_loopInv (setFramer_armedInv h.toArmedInv rfl ?_)
    simpa [Framer.cnt] using cnt_lt_of_not_full hroom hfit

/-- A Tick of the settle delay that is not its last, or has no Header pending. -/
theorem settleTick_loopInv {s : State} (h : LoopInv s) (hpend : s.pendDn ≠ none → 1 < s.settle) :
    LoopInv { s with settle := s.settle - 1 } := by
  obtain ⟨hle, hmode, hpendMode, hlen, hwait, hzero⟩ := h.timers
  have htimers : TimersLegal { s with settle := s.settle - 1 } :=
    ⟨(Nat.sub_le _ _).trans hle, fun hpos => hmode (Nat.lt_of_lt_of_le hpos (Nat.sub_le _ _)),
      fun hq => ⟨Nat.sub_pos_of_lt (hpend hq), (hpendMode hq).2⟩, hlen, hwait, hzero⟩
  exact ⟨⟨⟨h.config, h.sequencer, h.fit, htimers, h.exchange, h.memory⟩, h.armed⟩, h.idle⟩

/-- The Tick that ends the settle delay: the pending Header is gone (41_header_ops R136). -/
theorem lastSettleTick_loopInv {s : State} (h : LoopInv s) (q : List Byte) :
    LoopInv { emit .dn q { s with settle := s.settle - 1 } with pendDn := none } := by
  obtain ⟨hle, hmode, -, -, hwait, hzero⟩ := h.timers
  have htimers : TimersLegal { emit .dn q { s with settle := s.settle - 1 } with pendDn := none } :=
    ⟨(Nat.sub_le _ _).trans hle, fun hpos => hmode (Nat.lt_of_lt_of_le hpos (Nat.sub_le _ _)),
      fun hq => absurd rfl hq, by simp, hwait, hzero⟩
  exact ⟨⟨⟨h.config, h.sequencer, h.fit, htimers, h.exchange, h.memory⟩, h.armed⟩, h.idle⟩

/-- A Tick of the wait timer that does not bring it to 0. -/
theorem waitTick_loopInv {s : State} (h : LoopInv s) (hpos : 1 < s.waitT) :
    LoopInv { s with waitT := s.waitT - 1 } := by
  obtain ⟨hle, hmode, hpendMode, hlen, hwait, hzero⟩ := h.timers
  have hne : ¬ (s.mode = .headers ∨ s.cfg.waitTimeout = none) := fun hm => by
    have := hzero.mpr hm
    omega
  have htimers : TimersLegal { s with waitT := s.waitT - 1 } :=
    ⟨hle, hmode, hpendMode, hlen, (Nat.sub_le _ _).trans hwait,
      fun h0 => absurd h0 (Nat.sub_pos_of_lt hpos).ne', fun hm => absurd hm hne⟩
  exact ⟨⟨⟨h.config, h.sequencer, h.fit, htimers, h.exchange, h.memory⟩, h.armed⟩, h.idle⟩

theorem waitTimeout_loopInv {s : State} (h : BaseInv s) : LoopInv (waitTimeout s) := dropToIdle_loopInv _ h

theorem tickTimers_loopInv {s : State} (h : LoopInv s) : LoopInv (tickTimers s) := by
  unfold tickTimers
  simp only
  split
  · next hsettle =>
    split
    · split
      · exact lastSettleTick_loopInv h _
      · next hmore => exact settleTick_loopInv h fun _ => by omega
    · next hnone => exact settleTick_loopInv h fun hq => absurd hnone hq
  · split
    · split
      · have hb := h.toBaseInv
        exact waitTimeout_loopInv
          ⟨hb.config, hb.fit, hb.settle_le, hb.pend_settle, hb.pend_length, hb.memory⟩
      · next hmore => exact waitTick_loopInv h (by omega)
    · exact h

/-- The state after power-on or `Reset`, whatever memory in canonical form inside `MEM` it has and whatever was
emitted or is pending (10_state R37, 70_reset R230, R231). -/
theorem endpointInv_of_powerOn {c : Config} {m : Memory} (hc : ConfigOk c)
    (hm : m.wf = true ∧ m.within c.memBytes = true) (u d : List Byte) (es : List Event) :
    EndpointInv { State.powerOn c with mem := m, upTx := u, dnTx := d, inputs := es } := by
  have hloop := toIdle_loopInv (s := { State.powerOn c with mem := m, upTx := u, dnTx := d, inputs := es })
    ⟨hc, ⟨Nat.zero_le _, Nat.zero_le _⟩, Nat.zero_le _, fun hq => absurd rfl hq, nofun, hm⟩
  rw [toIdle_of_headers rfl rfl] at hloop
  exact (endpointInv_iff _).mpr ⟨hloop, fun _ => ⟨rfl, rfl⟩⟩

/-- Every event keeps the invariant. -/
theorem handle_endpointInv {e : Event} {s t : State} (h : EndpointInv s) (ho : handle e s = .next t) :
    EndpointInv t := by
  obtain ⟨hloop, -⟩ := (endpointInv_iff s).mp h
  cases e with
  | rxUp b => exact service_endpointInv (storeByte_loopInv .up b hloop) ho
  | rxDn b => exact service_endpointInv (storeByte_loopInv .dn b hloop) ho
  | tick => exact service_endpointInv (tickTimers_loopInv hloop) ho
  | reset => cases ho; exact endpointInv_of_powerOn hloop.config hloop.memory _ _ _
  | powerOn => cases ho; exact endpointInv_of_powerOn hloop.config hloop.config.memInit_legal _ _ _

/-- Settles O14: the invariant does not speak of the pending events, and every event keeps it. -/
theorem everyStepKeepsTheInvariant : Obligations.EveryStepKeepsTheInvariant := by
  intro s t h ho
  rcases step_cases ho with rfl | ⟨e, rest, -, he⟩
  · exact h
  · exact handle_endpointInv (s := { s with inputs := rest }) h he

/-- The parameters `State.reset` starts with meet their constraints (log 2). -/
theorem configOk_sample : ConfigOk Config.sample := by decide

/-- Settles O13. -/
theorem powerOnMeetsTheInvariant : Obligations.PowerOnMeetsTheInvariant := by
  have hpower : ∀ c, ConfigOk c → EndpointInv (State.powerOn c) := fun c hc =>
    endpointInv_of_powerOn hc hc.memInit_legal [] [] []
  exact ⟨hpower, hpower _ configOk_sample⟩

/-- Settles O10: the values are those `State.powerOn` is defined with. -/
theorem powerOnValues : Obligations.PowerOnValues := by
  intro cfg
  exact ⟨rfl, rfl, rfl, rfl, rfl, rfl, rfl, rfl, rfl, rfl, rfl, rfl, rfl, rfl, rfl, rfl, rfl, rfl, rfl, rfl⟩

end Sys2Proof.Machine

/-! ## A reserved `st` behaves as Idle

Outside a packet's processing `st` is only carried along; in it, `to_idle`, `refresh_idle` and the opening of an
exchange overwrite it. -/

namespace Sys2Proof.Machine

/-- An action that, where Headers are received, does not look at which `st` is held. -/
def StBlind (act : State → State) : Prop :=
  ∀ (s : State) (r : St), s.mode = .headers → State.mode { s with st := r } = .headers →
    act { s with st := r } = act s

/-- `u` is `t`, or holds `r` where `t` holds Idle. -/
def HoldsForIdle (r : St) (u t : State) : Prop := u = t ∨ (t.st = .idle ∧ u = { t with st := r })

/-- The same of two outcomes. -/
def OutcomeHoldsForIdle (r : St) (o : Host.Outcome State Fault Refusal) :
    Host.Outcome State Fault Refusal → Prop
  | .next t => o = .next t ∨ (t.st = .idle ∧ o = .next { t with st := r })
  | .fault f => o = .fault f
  | .refused f => o = .refused f

theorem outcomeHoldsForIdle_of_eq {r : St} {o o' : Host.Outcome State Fault Refusal} (h : o = o') :
    OutcomeHoldsForIdle r o o' := by
  subst h
  cases o with
  | next t => exact .inl rfl
  | fault f => exact rfl
  | refused f => exact rfl

theorem outcomeHoldsForIdle_next {r : St} {u t : State} (h : HoldsForIdle r u t) :
    OutcomeHoldsForIdle r (.next u) (.next t) := by
  rcases h with rfl | ⟨hst, rfl⟩
  · exact .inl rfl
  · exact .inr ⟨hst, rfl⟩

theorem mode_of_reserved {s : State} {r : St} (hr : r ∈ reservedSts) :
    State.mode { s with st := r } = .headers := by
  simp only [reservedSts, List.mem_cons, List.not_mem_nil, or_false] at hr
  rcases hr with rfl | rfl | rfl | rfl <;> rfl

/-! ### The actions of the packets -/

theorem toIdle_stBlind : StBlind toIdle := fun _ _ _ _ => rfl

theorem dropToIdle_stBlind (e : EndpointError) : StBlind (dropToIdle e) := fun _ _ _ _ => rfl

theorem refreshIdle_stBlind : StBlind refreshIdle := by
  intro s r hm hr
  rw [refreshIdle_of_headers hm, refreshIdle_of_headers hr]

theorem refreshIdle_raise_stBlind (e : EndpointError) : StBlind fun s => refreshIdle (raise e s) :=
  fun s r hm hr => refreshIdle_stBlind (raise e s) r hm hr

theorem refreshIdle_emit_stBlind (l : Link) (p : List Byte) : StBlind fun s => refreshIdle (emit l p s) :=
  fun s r hm hr => refreshIdle_stBlind (emit l p s) r hm hr

theorem claim_stBlind (hop : Byte) : StBlind (claim hop) := by
  intro s r _ _
  unfold claim
  by_cases h : s.cfg.settleTicks = 0
  · simp only [h, if_true]; rfl
  · simp only [h, if_false]; rfl

theorem pingUp_stBlind (p : List Byte) (hop : Byte) (target : BoardId) : StBlind (pingUp p hop target) := by
  intro s r hm hr
  unfold pingUp
  rw [claim_stBlind hop s r hm hr]
  rfl

theorem openExchange_stBlind (op : Xop) (p : List Byte) (hop : Byte) (target : BoardId) :
    StBlind (openExchange op p hop target) :=
  fun _ _ _ _ => rfl

/-! ### Reception: where Headers are received the outcome does not depend on which `st` is held -/

section Reception

variable {s : State} {r : St} (hm : s.mode = .headers) (hr : State.mode { s with st := r } = .headers)
include hm hr

theorem recvUpHeader_st {p : List Byte} {act : State → State} (hact : StBlind act) :
    recvUpHeader p act { s with st := r } = recvUpHeader p act s := by
  have hbad := refreshIdle_raise_stBlind (.checksum .up p) s r hm hr
  simp only [recvUpHeader, hm, hr, procUpHeader, hact s r hm hr, hbad]

theorem recvDnHeader_st {p : List Byte} {idleAct ackAct : State → State} (hidle : StBlind idleAct) :
    recvDnHeader p idleAct ackAct { s with st := r } = recvDnHeader p idleAct ackAct s := by
  have hbad := refreshIdle_raise_stBlind (.checksum .dn p) s r hm hr
  simp only [recvDnHeader, hm, hr, downHeader, hidle s r hm hr, hbad]

theorem recvRequest_st {rx : Link} {p : List Byte} {code : Byte} {act : State → State}
    (hact : StBlind act) : recvRequest rx p code act { s with st := r } = recvRequest rx p code act s := by
  cases rx with
  | up => exact recvUpHeader_st hm hr hact
  | dn => exact recvDnHeader_st hm hr (refreshIdle_raise_stBlind _)

theorem recvBody_st {rx : Link} {p : List Byte} {act : State → State} :
    recvBody rx p act { s with st := r } = recvBody rx p act s := by
  cases rx <;> simp only [recvBody, hm, hr]

theorem exec_st (i : Instr) : exec i { s with st := r } = exec i s := by
  cases i with
  | ack rx hop csum target =>
    cases rx with
    | up => exact recvUpHeader_st hm hr toIdle_stBlind
    | dn => exact recvDnHeader_st hm hr (refreshIdle_emit_stBlind _ _)
  | ping rx hop csum target => exact recvRequest_st hm hr (pingUp_stBlind _ hop target)
  | read rx hop csum target => exact recvRequest_st hm hr (openExchange_stBlind .read _ hop target)
  | write rx hop csum target => exact recvRequest_st hm hr (openExchange_stBlind .write _ hop target)
  | exec rx hop csum target => exact recvRequest_st hm hr toIdle_stBlind
  | bodyMem rx csum target offset payload => exact recvBody_st hm hr
  | bodySens rx csum target offset payload => exact recvBody_st hm hr
  | bodyCode rx csum target offset payload => exact recvBody_st hm hr

theorem procPacket_st (l : Link) (f : Format) (p : List Byte) :
    procPacket l f p { s with st := r } = procPacket l f p s := by
  unfold procPacket
  simp only
  split
  · exact exec_st hm hr _
  · cases l with
    | up => exact recvUpHeader_st hm hr (dropToIdle_stBlind _)
    | dn => exact recvDnHeader_st hm hr (dropToIdle_stBlind _)
  · exact recvBody_st hm hr
  · rfl

theorem serve_st {l : Link} (hl : nextServed s = some l) : serve l { s with st := r } = serve l s := by
  obtain ⟨-, hc⟩ := nextServed_some hl
  obtain ⟨fmt, hneed, hserve⟩ := serve_of_complete hc
  obtain ⟨fmt', hneed', hserve'⟩ := serve_of_complete (s := { s with st := r }) (l := l) hc
  cases hneed.symm.trans hneed'
  exact hserve'.trans ((procPacket_st (s := s.setFramer l ⟨some fmt, []⟩) hm hr l fmt _).trans hserve.symm)

end Reception

/-! ### The events -/

theorem tickTimers_holdsForIdle {r : St} {t : State} (hst : t.st = .idle) :
    HoldsForIdle r (tickTimers { t with st := r }) (tickTimers t) := by
  unfold tickTimers
  simp only
  split
  · split
    · split
      · exact .inr ⟨hst, rfl⟩
      · exact .inr ⟨hst, rfl⟩
    · exact .inr ⟨hst, rfl⟩
  · split
    · split
      · exact .inl rfl
      · exact .inr ⟨hst, rfl⟩
    · exact .inr ⟨hst, rfl⟩

section Events

variable {r : St} (hr : r ∈ reservedSts)
include hr

/-- The loop serves the same packets to the same effect; with none to serve the held value stays. -/
theorem service_holdsForIdle {u t : State} (h : HoldsForIdle r u t) :
    OutcomeHoldsForIdle r (service u) (service t) := by
  rcases h with rfl | ⟨hst, rfl⟩
  · exact outcomeHoldsForIdle_of_eq rfl
  · have hm : t.mode = .headers := mode_of_resting (.inl hst)
    unfold service serviceLoop
    cases hl : nextServed t with
    | none =>
      have hl' : nextServed { t with st := r } = none := hl
      simp only [hl']
      exact outcomeHoldsForIdle_next (.inr ⟨hst, rfl⟩)
    | some l =>
      have hl' : nextServed { t with st := r } = some l := hl
      simp only [hl', serve_st hm (mode_of_reserved hr) hl]
      exact outcomeHoldsForIdle_of_eq rfl

theorem storeByte_holdsForIdle (l : Link) (b : Byte) {t : State} (hst : t.st = .idle) :
    HoldsForIdle r (storeByte l b { t with st := r }) (storeByte l b t) := by
  have hm : t.mode = .headers := mode_of_resting (.inl hst)
  have hm' : State.mode { t with st := r } = .headers := mode_of_reserved hr
  have hf : State.framer { t with st := r } l = t.framer l := by cases l <;> rfl
  unfold storeByte
  simp only [hf, hm, hm']
  split
  · exact .inr ⟨hst, rfl⟩
  · split
    · exact .inl rfl
    · exact .inr ⟨hst, rfl⟩

theorem handle_holdsForIdle (e : Event) {t : State} (hst : t.st = .idle) :
    OutcomeHoldsForIdle r (handle e { t with st := r }) (handle e t) := by
  cases e with
  | rxUp b => exact service_holdsForIdle hr (storeByte_holdsForIdle hr .up b hst)
  | rxDn b => exact service_holdsForIdle hr (storeByte_holdsForIdle hr .dn b hst)
  | tick => exact service_holdsForIdle hr (tickTimers_holdsForIdle hst)
  | reset => exact outcomeHoldsForIdle_of_eq rfl
  | powerOn => exact outcomeHoldsForIdle_of_eq rfl

theorem step_holdsForIdle {t : State} (hst : t.st = .idle) :
    OutcomeHoldsForIdle r (step { t with st := r }) (step t) := by
  unfold step
  simp only
  split
  · exact outcomeHoldsForIdle_next (.inr ⟨hst, rfl⟩)
  · exact handle_holdsForIdle hr _ (t := { t with inputs := _ }) hst

end Events

/-- Settles O19: `s` is its Idle variant with `st` set to the reserved value it holds. -/
theorem reservedStatesBehaveAsIdle : Obligations.ReservedStatesBehaveAsIdle := by
  intro s hres
  have h : OutcomeHoldsForIdle s.st (step s) (step { s with st := .idle }) :=
    step_holdsForIdle hres (t := { s with st := .idle }) rfl
  split
  · next hidle => rwa [hidle] at h
  · next hidle => rwa [hidle] at h
  · next hidle => rwa [hidle] at h

end Sys2Proof.Machine

/-! # Proofs of the statements about memory and the chain (20_memory) -/

/-! ## Addresses and bytes of device memory -/

namespace Sys2Proof.Machine

/-- No u16 offset makes the 32-bit product of 20_memory R54 wrap. -/
theorem blockAddr_eq (offset : Half) : blockAddr offset = offset.toNat * 512 := by
  have hlt : offset.toNat < 2 ^ 16 := offset.isLt
  simp only [blockAddr, BitVec.toNat_mul, BitVec.toNat_setWidth, BitVec.toNat_ofNat]
  omega

/-- Settles O8, from the largest u16 offset. -/
theorem blockAddressIsOffsetTimes512 : Obligations.BlockAddressIsOffsetTimes512 := by
  intro offset
  have hlt : offset.toNat < 2 ^ 16 := offset.isLt
  exact ⟨blockAddr_eq offset, by rw [blockAddr_eq]; omega⟩

theorem byteAt_cons_zero (b : Byte) (p : List Byte) : byteAt (b :: p) 0 = b := rfl

theorem byteAt_cons_succ (b : Byte) (p : List Byte) (i : Nat) : byteAt (b :: p) (i + 1) = byteAt p i := rfl

theorem byteAt_of_lt {p : List Byte} {i : Nat} (h : i < p.length) : byteAt p i = p[i] := by
  simp [byteAt, h]

/-- `MemWrite` sets its own bytes and no other (20_memory R53). -/
theorem read_memWrite {m : Memory} (hm : m.wf = true) (addr : Nat) (v : List Byte) (a : Nat) :
    (memWrite m addr v : Memory).read a =
      if addr ≤ a ∧ a < addr + v.length then byteAt v (a - addr) else m.read a := by
  induction v generalizing m addr with
  | nil =>
    have hout : ¬ (addr ≤ a ∧ a < addr + 0) := by omega
    simp only [memWrite, List.length_nil, if_neg hout]
  | cons b rest ih =>
    simp only [memWrite, List.length_cons]
    rw [ih (Memory.wf_write addr b hm), Memory.read_write hm]
    rcases Nat.lt_trichotomy a addr with hlt | rfl | hgt
    · rw [if_neg (by omega), if_neg (by omega), if_neg (by omega)]
    · rw [if_neg (by omega), if_pos rfl, if_pos (by omega), Nat.sub_self, byteAt_cons_zero]
    · obtain ⟨i, rfl⟩ : ∃ i, a = addr + 1 + i := ⟨a - (addr + 1), by omega⟩
      have hsub : addr + 1 + i - addr = i + 1 := by omega
      rw [Nat.add_sub_cancel_left, hsub, byteAt_cons_succ, if_neg (by omega : ¬ addr + 1 + i = addr)]
      exact if_congr (by omega) rfl rfl

/-- `MemRead` returns the bytes in address order (20_memory R52). -/
theorem byteAt_memRead (m : Memory) (addr : Nat) {n i : Nat} (h : i < n) :
    byteAt (memRead m addr n) i = m.read (addr + i) := by
  simp [byteAt, memRead, h]

/-- `MemRead` of what `MemWrite` wrote. -/
theorem memRead_memWrite {m : Memory} (hm : m.wf = true) (addr : Nat) (v : List Byte) :
    memRead (memWrite m addr v) addr v.length = v := by
  refine List.ext_getElem (memRead_length _ _ _) fun i hi hv => ?_
  calc (memRead (memWrite m addr v) addr v.length)[i]
      = byteAt (memRead (memWrite m addr v) addr v.length) i := (byteAt_of_lt hi).symm
    _ = Memory.read (memWrite m addr v) (addr + i) := byteAt_memRead _ _ hv
    _ = byteAt v (addr + i - addr) := by rw [read_memWrite hm, if_pos (by omega)]
    _ = v[i] := by rw [Nat.add_sub_cancel_left, byteAt_of_lt hv]

/-- Settles O9, by induction on the bytes written. -/
theorem memReadSeesMemWrite : Obligations.MemReadSeesMemWrite := fun m addr v hm =>
  ⟨read_memWrite hm addr v, memRead_memWrite hm addr v, fun _ _ hi => byteAt_memRead m addr hi⟩

end Sys2Proof.Machine

/-! ## What leaves memory alone

Of the operations a packet's processing is made of, only `writeBlock` writes `mem`. -/

namespace Sys2Proof.Machine

/-- An operation that writes no byte of memory. -/
def KeepsMem (act : State → State) : Prop := ∀ s, (act s).mem = s.mem

@[simp] theorem rearm_mem (s : State) : (rearm s).mem = s.mem := by rw [rearm_eq]

@[simp] theorem refreshIdle_mem (s : State) : (refreshIdle s).mem = s.mem := by
  by_cases h : s.mode = .headers
  · rw [refreshIdle_of_headers h]
  · rw [refreshIdle_of_not_headers h]

@[simp] theorem toIdle_mem (s : State) : (toIdle s).mem = s.mem := by rw [toIdle_eq]

@[simp] theorem dropToIdle_mem (e : EndpointError) (s : State) : (dropToIdle e s).mem = s.mem :=
  toIdle_mem _

@[simp] theorem enterPhase_mem (f : Fph) (s : State) : (enterPhase f s).mem = s.mem := by rw [enterPhase_eq]

theorem toIdle_keepsMem : KeepsMem toIdle := toIdle_mem

theorem dropToIdle_keepsMem (e : EndpointError) : KeepsMem (dropToIdle e) := dropToIdle_mem e

theorem claim_keepsMem (hop : Byte) : KeepsMem (claim hop) := by
  intro s
  unfold claim
  simp only [toIdle_mem]
  split <;> simp

theorem pingUp_keepsMem (p : List Byte) (hop : Byte) (target : BoardId) : KeepsMem (pingUp p hop target) := by
  intro s
  unfold pingUp
  split
  · exact claim_keepsMem hop s
  · split
    · simp [echo]
    · simp [forwardPing]

theorem openExchange_keepsMem (op : Xop) (p : List Byte) (hop : Byte) (target : BoardId) :
    KeepsMem (openExchange op p hop target) := by
  intro s
  unfold openExchange
  split
  · simp [openOwned]
  · simp [openRelayed]

theorem checkTarget_keepsMem {act : State → State} (target : BoardId) (hact : KeepsMem act) :
    KeepsMem (checkTarget target act) := by
  intro s
  unfold checkTarget
  split
  · exact hact s
  · exact dropToIdle_mem _ s

theorem fwdBody_keepsMem (p : List Byte) : KeepsMem (fwdBody p) := by
  intro s
  unfold fwdBody
  split
  · simp only
    split <;> simp
  · exact raise_mem _ s

theorem fwdReply_keepsMem (p : List Byte) : KeepsMem (fwdReply p) := by
  intro s
  unfold fwdReply
  split <;> simp

section Reception

variable {p : List Byte} {act idleAct ackAct : State → State} {s t : State}

theorem procUpHeader_keepsMem (hact : KeepsMem act) : KeepsMem (procUpHeader p act) := by
  intro s
  unfold procUpHeader
  split
  · exact hact s
  · simp

theorem preempt_keepsMem (hact : KeepsMem act) : KeepsMem (preempt p act) := by
  intro s
  unfold preempt
  split
  · exact (procUpHeader_keepsMem hact _).trans (dropToIdle_mem _ s)
  · exact raise_mem _ s

theorem recvUpHeader_mem (hact : KeepsMem act) (h : recvUpHeader p act s = .next t) : t.mem = s.mem := by
  rcases recvUpHeader_cases h with ⟨-, ho⟩ | ⟨-, ho⟩ | ⟨-, ho⟩
  · cases ho; exact procUpHeader_keepsMem hact s
  · cases ho; exact preempt_keepsMem hact s
  · cases ho

theorem recvDnHeader_mem (hidle : KeepsMem idleAct) (hack : KeepsMem ackAct)
    (h : recvDnHeader p idleAct ackAct s = .next t) : t.mem = s.mem := by
  rcases recvDnHeader_cases h with ⟨-, ho⟩ | ⟨-, ho⟩ | ⟨-, ho⟩
  · cases ho
    unfold downHeader
    split
    · exact hidle s
    · simp
  · cases ho
    unfold fwdAckHeader
    split
    · exact hack s
    · exact raise_mem _ s
  · cases ho

theorem recvRequest_mem {rx : Link} {code : Byte} (hact : KeepsMem act)
    (h : recvRequest rx p code act s = .next t) : t.mem = s.mem := by
  cases rx with
  | up => exact recvUpHeader_mem hact h
  | dn => exact recvDnHeader_mem (fun s => (refreshIdle_mem _).trans (raise_mem _ s)) (raise_mem _) h

/-- A Body leaves memory alone, unless it is the owner's, passes the checksum test and its kind's action runs. -/
theorem recvBody_mem_or_act {rx : Link} (h : recvBody rx p act s = .next t) :
    t.mem = s.mem ∨ (rx = .up ∧ s.st = .awaitingBody ∧ csumOkBody s.cfg p = true ∧ t = act s) := by
  rcases recvBody_cases h with ⟨hrx, hm, ho⟩ | ⟨-, -, ho⟩ | ⟨-, -, ho⟩ | ho
  · cases ho
    unfold ownerBody
    split
    · next hcsum => exact .inr ⟨hrx, (mode_ownerBody_iff s).mp hm, hcsum, rfl⟩
    · exact .inl (raise_mem _ s)
  · cases ho; exact .inl (fwdBody_keepsMem p s)
  · cases ho; exact .inl (fwdReply_keepsMem p s)
  · cases ho

theorem recvBody_mem {rx : Link} (hact : KeepsMem act) (h : recvBody rx p act s = .next t) :
    t.mem = s.mem := by
  rcases recvBody_mem_or_act h with hmem | ⟨-, -, -, rfl⟩
  · exact hmem
  · exact hact s

end Reception

/-! ## The one write to memory -/

/-- A Memory Body at the owner writes only in a Write exchange, to its target and inside `MEM` (42_body_ops R153,
R154, R158). -/
theorem checkTarget_memoryBody_mem (target : BoardId) (b : BodyRec) (s : State) :
    (checkTarget target (memoryBody b) s).mem = s.mem ∨
    (target = s.xtgt ∧ blockAddr b.offset + payloadSize ≤ s.cfg.memBytes ∧ s.xop = .write ∧
      (checkTarget target (memoryBody b) s).mem = memWrite s.mem (blockAddr b.offset) b.payload) := by
  unfold checkTarget
  split
  · next htgt =>
    unfold memoryBody
    simp only
    split
    · next hin =>
      split
      · next hop => exact .inr ⟨htgt, of_decide_eq_true hin, hop, toIdle_mem _⟩
      · exact .inl (by simp [readBlock])
    · exact .inl (dropToIdle_mem _ s)
  · exact .inl (dropToIdle_mem _ s)

/-- An instruction leaves memory alone or is a Memory Body that writes its block at the owner (20_memory R51,
42_body_ops R154). -/
theorem exec_mem {i : Instr} {s t : State} (h : exec i s = .next t) :
    t.mem = s.mem ∨
    ∃ csum target offset payload, i = .bodyMem .up csum target offset payload ∧
      s.st = .awaitingBody ∧ s.xop = .write ∧ csumOkBody s.cfg (packet s i) = true ∧ target = s.xtgt ∧
      blockAddr offset + payloadSize ≤ s.cfg.memBytes ∧
      t.mem = memWrite s.mem (blockAddr offset) payload := by
  cases i with
  | ack rx hop csum target =>
    left
    cases rx with
    | up => exact recvUpHeader_mem toIdle_keepsMem h
    | dn =>
      exact recvDnHeader_mem
        (fun s => (refreshIdle_mem _).trans (emit_mem .up _ s))
        (fun s => (enterPhase_mem .fwdBody _).trans (emit_mem .up _ s)) h
  | ping rx hop csum target => exact .inl (recvRequest_mem (pingUp_keepsMem _ hop target) h)
  | read rx hop csum target => exact .inl (recvRequest_mem (openExchange_keepsMem .read _ hop target) h)
  | write rx hop csum target => exact .inl (recvRequest_mem (openExchange_keepsMem .write _ hop target) h)
  | exec rx hop csum target => exact .inl (recvRequest_mem toIdle_keepsMem h)
  | bodyMem rx csum target offset payload =>
    rcases recvBody_mem_or_act h with hmem | ⟨rfl, hst, hcsum, rfl⟩
    · exact .inl hmem
    · rcases checkTarget_memoryBody_mem target _ s with hmem | ⟨htgt, hin, hop, hmem⟩
      · exact .inl hmem
      · exact .inr ⟨csum, target, offset, payload, rfl, hst, hop, hcsum, htgt, hin, hmem⟩
  | bodySens rx csum target offset payload =>
    exact .inl (recvBody_mem (checkTarget_keepsMem target (dropToIdle_keepsMem _)) h)
  | bodyCode rx csum target offset payload =>
    exact .inl (recvBody_mem (checkTarget_keepsMem target (dropToIdle_keepsMem _)) h)

/-- Settles O22: the write of `exec_mem` is a `MemWrite` of the block's 512 bytes. -/
theorem onlyAnOwnersWriteChangesMemory : Obligations.OnlyAnOwnersWriteChangesMemory := by
  intro i s t h
  rcases exec_mem h with hmem | ⟨csum, target, offset, payload, rfl, hst, hop, hcsum, htgt, hin, hmem⟩
  · exact .inl hmem
  · rw [blockAddr_eq] at hin hmem
    refine .inr ⟨csum, target, offset, payload, rfl, hst, hop, hcsum, htgt, hin, fun hwf hi a hout => ?_⟩
    have hlen : payload.length = 512 := (wellFormed_bodyMem ..).mp hi
    rw [hmem, read_memWrite hwf, hlen, if_neg hout]

end Sys2Proof.Machine

/-! ## The chain -/

namespace Sys2Proof.Machine

/-- What an endpoint that may not exist has sent on one of its links. -/
def sentBy (tx : State → List Byte) (o : Option Node) : List Byte := o.elim [] fun n => tx n.ep

theorem upStream_succ (c : Chain) (j : Nat) : c.upStream (j + 1) = sentBy State.dnTx c.nodes[j]? := by
  simp only [Chain.upStream]
  cases c.nodes[j]? <;> rfl

theorem dnStream_eq (c : Chain) (k : Nat) : c.dnStream k = sentBy State.upTx c.nodes[k + 1]? := by
  unfold Chain.dnStream
  cases c.nodes[k + 1]? <;> rfl

theorem hostStream_eq (c : Chain) : c.hostStream = sentBy State.upTx c.nodes[0]? := by
  unfold Chain.hostStream
  cases c.nodes[0]? <;> rfl

theorem runNode_of_handle {c : Chain} {e : Event} {s t : State} (k u v : Nat) (h : handle e s = .next t) :
    c.runNode k ⟨s, u, v⟩ e = .next { c with nodes := c.nodes.set k ⟨t, u, v⟩ } := by
  simp only [Chain.runNode, h]

theorem move_deliverUp {c : Chain} {k : Nat} {n : Node} {b : Byte} (hn : c.nodes[k]? = some n)
    (hb : (c.upStream k)[n.upSeen]? = some b) :
    c.move (.deliverUp k) = c.runNode k { n with upSeen := n.upSeen + 1 } (.rxUp b) := by
  simp only [Chain.move, hn, hb]

theorem move_deliverDn {c : Chain} {k : Nat} {n : Node} {b : Byte} (hn : c.nodes[k]? = some n)
    (hb : (c.dnStream k)[n.dnSeen]? = some b) :
    c.move (.deliverDn k) = c.runNode k { n with dnSeen := n.dnSeen + 1 } (.rxDn b) := by
  simp only [Chain.move, hn, hb]

theorem move_deliverDn_of_empty {c : Chain} {k : Nat} (h : c.dnStream k = []) :
    c.move (.deliverDn k) = .next c := by
  simp only [Chain.move, h, List.getElem?_nil]
  cases c.nodes[k]? <;> rfl

/-- With a byte pending to it, the host receives that byte (20_memory R58). -/
theorem move_hostRecv {c : Chain} {b : Byte} (hb : c.hostStream[c.hostSeen]? = some b) :
    c.move .hostRecv = .next { c with hostSeen := c.hostSeen + 1 } ∧
    Chain.hostReceived { c with hostSeen := c.hostSeen + 1 } = c.hostReceived ++ [b] := by
  obtain ⟨hlt, -⟩ := List.getElem?_eq_some_iff.mp hb
  have htake : c.hostStream.take (c.hostSeen + 1) = c.hostStream.take c.hostSeen ++ [b] := by
    rw [List.take_add_one, hb, Option.toList_some]
  exact ⟨by simp only [Chain.move, if_pos hlt], htake⟩

/-- Settles O58: the wiring of 20_memory R59 names the stream of each receiver. -/
theorem chainDeliversTheNextByte : Obligations.ChainDeliversTheNextByte := by
  refine ⟨?firstUp, ?laterUp, ?dn, ?host⟩
  case firstUp =>
    intro c n b ep hn hb hep
    rw [move_deliverUp hn hb, runNode_of_handle _ _ _ hep]
  case laterUp =>
    intro c j m n b ep hm hn hb hep
    have hstream : (c.upStream (j + 1))[n.upSeen]? = some b := by rw [upStream_succ, hm]; exact hb
    rw [move_deliverUp hn hstream, runNode_of_handle _ _ _ hep]
  case dn =>
    intro c k n m b ep hn hm hb hep
    have hstream : (c.dnStream k)[n.dnSeen]? = some b := by rw [dnStream_eq, hm]; exact hb
    rw [move_deliverDn hn hstream, runNode_of_handle _ _ _ hep]
  case host =>
    intro c n b hn hb
    have hstream : c.hostStream[c.hostSeen]? = some b := by rw [hostStream_eq, hn]; exact hb
    obtain ⟨hmove, hreceived⟩ := move_hostRecv hstream
    exact ⟨_, hmove, rfl, hreceived⟩

/-- Settles O59: no node follows the last one, so nothing feeds its downlink. -/
theorem lastDownlinkReceivesNothing : Obligations.LastDownlinkReceivesNothing := by
  intro c
  have hnone : c.nodes[c.nodes.length - 1 + 1]? = none := List.getElem?_eq_none (by omega)
  exact move_deliverDn_of_empty (by rw [dnStream_eq, hnone]; rfl)

/-! ### What a move can do -/

/-- A count of bytes delivered that stays, or counts one more byte of those sent. -/
def Counts (sent : List Byte) (seen seen' : Nat) : Prop :=
  seen' = seen ∨ (seen < sent.length ∧ seen' = seen + 1)

theorem Counts.of_getElem? {sent : List Byte} {seen : Nat} {b : Byte} (h : sent[seen]? = some b) :
    Counts sent seen (seen + 1) := by
  obtain ⟨hlt, -⟩ := List.getElem?_eq_some_iff.mp h
  exact .inr ⟨hlt, rfl⟩

theorem Counts.le {sent : List Byte} {seen seen' : Nat} (h : Counts sent seen seen')
    (hle : seen ≤ sent.length) : seen' ≤ sent.length := by
  rcases h with rfl | ⟨hlt, rfl⟩
  · exact hle
  · exact hlt

/-- Node `k` of the chain handles an event and becomes `n'`, each of its counts by `Counts`. -/
structure NodeMoves (c : Chain) (k : Nat) (n n' : Node) : Prop where
  node : c.nodes[k]? = some n
  handles : ∃ e, handle e n.ep = .next n'.ep
  up : Counts (c.upStream k) n.upSeen n'.upSeen
  dn : Counts (c.dnStream k) n.dnSeen n'.dnSeen

theorem runNode_next {c d : Chain} {k : Nat} {n : Node} {e : Event} (h : c.runNode k n e = .next d) :
    ∃ ep, handle e n.ep = .next ep ∧ d = { c with nodes := c.nodes.set k { n with ep := ep } } := by
  unfold Chain.runNode at h
  split at h
  · next ep hep => cases h; exact ⟨ep, hep, rfl⟩
  · cases h
  · cases h

/-- Everything a node's event does to the chain. -/
theorem runNode_nodeMoves {c d : Chain} {k : Nat} {n : Node} {u v : Nat} {e : Event}
    (hn : c.nodes[k]? = some n) (hu : Counts (c.upStream k) n.upSeen u)
    (hv : Counts (c.dnStream k) n.dnSeen v) (h : c.runNode k ⟨n.ep, u, v⟩ e = .next d) :
    ∃ k n n', NodeMoves c k n n' ∧ d = { c with nodes := c.nodes.set k n' } := by
  obtain ⟨ep, hep, rfl⟩ := runNode_next h
  exact ⟨k, n, ⟨ep, u, v⟩, ⟨hn, ⟨e, hep⟩, hu, hv⟩, rfl⟩

/-- All that a move can do: nothing, a packet sent by the host, a byte received by it, or one node's event. -/
theorem move_cases {c d : Chain} {m : ChainMove} (h : c.move m = .next d) :
    d = c ∨ (∃ p, d = { c with hostTx := c.hostTx ++ p }) ∨
    (c.hostSeen < c.hostStream.length ∧ d = { c with hostSeen := c.hostSeen + 1 }) ∨
    ∃ k n n', NodeMoves c k n n' ∧ d = { c with nodes := c.nodes.set k n' } := by
  cases m with
  | hostSend p => cases h; exact .inr (.inl ⟨p, rfl⟩)
  | hostRecv =>
    simp only [Chain.move] at h
    split at h
    · next hlt => cases h; exact .inr (.inr (.inl ⟨hlt, rfl⟩))
    · cases h; exact .inl rfl
  | deliverUp k =>
    simp only [Chain.move] at h
    split at h
    · cases h; exact .inl rfl
    · next hn =>
      split at h
      · cases h; exact .inl rfl
      · next hb => exact .inr (.inr (.inr (runNode_nodeMoves hn (.of_getElem? hb) (.inl rfl) h)))
  | deliverDn k =>
    simp only [Chain.move] at h
    split at h
    · cases h; exact .inl rfl
    · next hn =>
      split at h
      · cases h; exact .inl rfl
      · next hb => exact .inr (.inr (.inr (runNode_nodeMoves hn (.inl rfl) (.of_getElem? hb) h)))
  | tick k | reset k | powerOn k =>
    simp only [Chain.move] at h
    split at h
    · cases h; exact .inl rfl
    · next hn => exact .inr (.inr (.inr (runNode_nodeMoves hn (.inl rfl) (.inl rfl) h)))

/-! ### Links only deliver what was sent -/

/-- Every event, `Reset` and power-on among them, only appends to the transmit streams (10_state R35). -/
theorem handle_tx_grow {e : Event} {s t : State} (h : handle e s = .next t) :
    s.upTx <+: t.upTx ∧ s.dnTx <+: t.dnTx := by
  by_cases hr : e = .reset ∨ e = .powerOn
  · have hev := handle_reset_evolves hr h
    exact ⟨hev.upTx, hev.dnTx⟩
  · obtain ⟨hreset, hpower⟩ := not_or.mp hr
    have hev := handle_evolves hreset hpower h
    exact ⟨hev.upTx, hev.dnTx⟩

theorem sentBy_set_grow {tx : State → List Byte} {nodes : List Node} {k : Nat} {n n' : Node}
    (hn : nodes[k]? = some n) (htx : tx n.ep <+: tx n'.ep) (j : Nat) :
    sentBy tx nodes[j]? <+: sentBy tx (nodes.set k n')[j]? := by
  by_cases hj : k = j
  · subst hj
    obtain ⟨hlt, -⟩ := List.getElem?_eq_some_iff.mp hn
    rw [hn, List.getElem?_set_self hlt]
    exact htx
  · rw [List.getElem?_set_ne hj]

/-- The streams of a chain after its node `k` became `n'` extend those before. -/
theorem NodeMoves.streams_grow {c : Chain} {k : Nat} {n n' : Node} (h : NodeMoves c k n n') :
    let d : Chain := { c with nodes := c.nodes.set k n' }
    c.hostStream <+: d.hostStream ∧ (∀ j, c.upStream j <+: d.upStream j) ∧
      ∀ j, c.dnStream j <+: d.dnStream j := by
  obtain ⟨e, he⟩ := h.handles
  obtain ⟨hup, hdn⟩ := handle_tx_grow he
  refine ⟨?_, fun j => ?_, fun j => ?_⟩
  · simpa only [hostStream_eq] using sentBy_set_grow h.node hup 0
  · cases j with
    | zero => exact List.prefix_rfl
    | succ j => simpa only [upStream_succ] using sentBy_set_grow h.node hdn j
  · simpa only [dnStream_eq] using sentBy_set_grow h.node hup (j + 1)

theorem NodeMoves.deliveredWithinSent {c : Chain} {k : Nat} {n n' : Node} (h : NodeMoves c k n n')
    (hc : c.DeliveredWithinSent) :
    Chain.DeliveredWithinSent { c with nodes := c.nodes.set k n' } := by
  obtain ⟨hhost, hnodes⟩ := hc
  obtain ⟨hostGrows, upGrows, dnGrows⟩ := h.streams_grow
  refine ⟨hhost.trans hostGrows.length_le, fun j x hx => ?_⟩
  obtain ⟨hu, hd⟩ : x.upSeen ≤ (c.upStream j).length ∧ x.dnSeen ≤ (c.dnStream j).length := by
    rcases eq_or_ne k j with rfl | hj
    · obtain ⟨hlt, -⟩ := List.getElem?_eq_some_iff.mp h.node
      obtain ⟨hu, hd⟩ := hnodes k n h.node
      rw [List.getElem?_set_self hlt] at hx
      cases hx
      exact ⟨h.up.le hu, h.dn.le hd⟩
    · rw [List.getElem?_set_ne hj] at hx
      exact hnodes j x hx
  exact ⟨hu.trans (upGrows j).length_le, hd.trans (dnGrows j).length_le⟩

theorem hostSend_deliveredWithinSent {c : Chain} (p : List Byte) (hc : c.DeliveredWithinSent) :
    Chain.DeliveredWithinSent { c with hostTx := c.hostTx ++ p } := by
  obtain ⟨hhost, hnodes⟩ := hc
  refine ⟨hhost, fun k n hn => ?_⟩
  obtain ⟨hu, hd⟩ := hnodes k n hn
  refine ⟨?_, hd⟩
  cases k with
  | zero => exact hu.trans (List.prefix_append c.hostTx p).length_le
  | succ j => exact hu

theorem move_deliveredWithinSent {c d : Chain} {m : ChainMove} (hc : c.DeliveredWithinSent)
    (h : c.move m = .next d) : d.DeliveredWithinSent := by
  rcases move_cases h with rfl | ⟨p, rfl⟩ | ⟨hlt, rfl⟩ | ⟨k, n, n', hmoves, rfl⟩
  · exact hc
  · exact hostSend_deliveredWithinSent p hc
  · obtain ⟨-, hnodes⟩ := hc
    exact ⟨hlt, hnodes⟩
  · exact hmoves.deliveredWithinSent hc

theorem run_deliveredWithinSent {ms : List ChainMove} {c d : Chain} (hc : c.DeliveredWithinSent)
    (h : Chain.run ms c = .next d) : d.DeliveredWithinSent := by
  induction ms generalizing c with
  | nil => cases h; exact hc
  | cons m rest ih =>
    unfold Chain.run at h
    split at h
    · next hm => exact ih (move_deliveredWithinSent hc hm) h
    · cases h
    · cases h

theorem powerOn_deliveredWithinSent (cfgs : List Config) : (Chain.powerOn cfgs).DeliveredWithinSent := by
  refine ⟨Nat.zero_le _, fun k n hn => ?_⟩
  simp only [Chain.powerOn, List.getElem?_map, Option.map_eq_some_iff] at hn
  obtain ⟨cfg, -, rfl⟩ := hn
  exact ⟨Nat.zero_le _, Nat.zero_le _⟩

/-- Settles O57: at power-on nothing is delivered, and a move counts a byte only when one is pending. -/
theorem chainDeliversOnlyWhatWasSent : Obligations.ChainDeliversOnlyWhatWasSent :=
  ⟨powerOn_deliveredWithinSent, fun _ _ _ => move_deliveredWithinSent,
    fun cfgs _ _ => run_deliveredWithinSent (powerOn_deliveredWithinSent cfgs)⟩

end Sys2Proof.Machine

/-! # Proofs of the statements about the decoder (30_encoding)

The decoder's answer turns on the class of the code byte alone; the class turns on membership in the code map. -/

namespace Sys2Proof.Machine

/-- 40_codec R114: an operation byte has no class exactly when the map has no entry for it. -/
theorem classifyOp_eq_unknown_iff (om : OpcodeMap) (v : Byte) :
    classifyOp om v = .unknown ↔ v ∉ [om.ack, om.ping, om.read, om.write, om.exec] := by
  unfold classifyOp
  split_ifs <;> simp_all

/-- 40_codec R115: a kind byte has no class exactly when the map has no entry for it. -/
theorem classifyKind_eq_unknown_iff (km : KindMap) (v : Byte) :
    classifyKind km v = .unknown ↔ v ∉ [km.memory, km.sensors, km.code] := by
  unfold classifyKind
  split_ifs <;> simp_all

section ByClass

variable (om : OpcodeMap) (km : KindMap) (rx : Link) {p : List Byte}

theorem decode_header_eq (hlen : p.length = 15) : decode om km rx .header p = decodeHeaderInstr om rx p :=
  if_pos hlen

theorem decode_body_eq (hlen : p.length = 528) : decode om km rx .body p = decodeBodyInstr km rx p :=
  if_pos hlen

/-- 30_encoding R82: a Header whose code byte has no class is rejected by that byte. -/
theorem decodeHeaderInstr_of_unknown (h : classifyOp om (byteAt p 0) = .unknown) :
    decodeHeaderInstr om rx p = .reject (.unknownOp (byteAt p 0)) := by
  simp [decodeHeaderInstr, decodeHeader, h]

/-- 40_codec R106: a Header whose code byte has a class is an instruction, whatever its other bytes. -/
theorem decodeHeaderInstr_of_known (h : classifyOp om (byteAt p 0) ≠ .unknown) :
    ∃ i, decodeHeaderInstr om rx p = .instr i := by
  cases hclass : classifyOp om (byteAt p 0) with
  | unknown => exact absurd hclass h
  | _ => simp [decodeHeaderInstr, decodeHeader, hclass]

/-- 30_encoding R83: a Body whose code byte has no class is rejected by that byte. -/
theorem decodeBodyInstr_of_unknown (h : classifyKind km (byteAt p 0) = .unknown) :
    decodeBodyInstr km rx p = .reject (.unknownKind (byteAt p 0)) := by
  simp [decodeBodyInstr, decodeBody, h]

/-- 40_codec R106: a Body whose code byte has a class is an instruction, whatever its other bytes. -/
theorem decodeBodyInstr_of_known (h : classifyKind km (byteAt p 0) ≠ .unknown) :
    ∃ i, decodeBodyInstr km rx p = .instr i := by
  cases hclass : classifyKind km (byteAt p 0) with
  | unknown => exact absurd hclass h
  | _ => simp [decodeBodyInstr, decodeBody, hclass]

end ByClass

/-- Settles O4, by the class of the code byte. -/
theorem onlyUnknownCodesAreRejected : Obligations.OnlyUnknownCodesAreRejected := by
  intro om km rx p
  refine ⟨fun hlen => ?_, fun hlen => ?_⟩
  · rw [decode_header_eq om km rx hlen]
    split
    · next hmem => exact decodeHeaderInstr_of_known om rx fun h => (classifyOp_eq_unknown_iff om _).mp h hmem
    · next hmem => exact decodeHeaderInstr_of_unknown om rx ((classifyOp_eq_unknown_iff om _).mpr hmem)
  · rw [decode_body_eq om km rx hlen]
    split
    · next hmem => exact decodeBodyInstr_of_known km rx fun h => (classifyKind_eq_unknown_iff km _).mp h hmem
    · next hmem => exact decodeBodyInstr_of_unknown km rx ((classifyKind_eq_unknown_iff km _).mpr hmem)

theorem byteAt_append_left {p q : List Byte} {i : Nat} (h : i < p.length) : byteAt (p ++ q) i = byteAt p i :=
  List.getD_append p q 0x00 i h

/-- A Body's fields before its payload are in its first 16 bytes (30_encoding R72). -/
theorem decodeBody_append {front payload : List Byte} (hfront : front.length = 16)
    (hpayload : payload.length = 512) :
    decodeBody (front ++ payload) = { decodeBody front with payload := payload } := by
  simp [decodeBody, idAt, u32At, u16At, byteAt_append_left, hfront, hpayload]

/-- A memory Body given as its first 16 bytes and its payload, which stays symbolic. -/
theorem decode_bodyMem_append {om : OpcodeMap} {km : KindMap} {rx : Link} {front payload : List Byte}
    (hfront : front.length = 16) (hpayload : payload.length = 512)
    (hkind : classifyKind km (byteAt front 0) = .memory) :
    decode om km rx .body (front ++ payload) =
      .instr (.bodyMem rx (byteAt front 1) (idAt front 2) (u16At front 14) payload) := by
  have hlen : (front ++ payload).length = 528 := by simp [hfront, hpayload]
  rw [decode_body_eq om km rx hlen, decodeBodyInstr, decodeBody_append hfront hpayload]
  simp [decodeBody, hkind]

/-- Settles O5: the two Headers by evaluation, the Body by evaluating its first 16 bytes. -/
theorem writtenOutPacketsDecode : Obligations.WrittenOutPacketsDecode := by
  refine ⟨by decide, by decide, ?_⟩
  exact decode_bodyMem_append rfl List.length_replicate rfl

end Sys2Proof.Machine

/-! # Proofs of the statements about the codec (40_codec)

Both round trips go field by field: what a field's bytes read as at the front of a packet, and what the bytes
written for a field that was read put back at the front of the rest. -/

namespace Sys2Proof.Machine

/-! ## Reading a field that was written -/

/-- A u16 field's bytes make the half-word they came from (30_encoding R74): each bit is in exactly one of them. -/
theorem u16_of_bytes (v : Half) :
    (v.extractLsb' 0 8).setWidth 16 ||| (v.extractLsb' 8 8).setWidth 16 <<< 8 = v := by
  ext i hi
  grind

theorem u32At_le32_append (v : Word) (q : List Byte) : u32At (le32 v ++ q) 0 = v := u32_of_bytes v

theorem u16At_le16_append (v : Half) (q : List Byte) : u16At (le16 v ++ q) 0 = v := u16_of_bytes v

/-- Each word of a BoardID is read from its own four bytes (30_encoding R75). -/
theorem idAt_encodeId_append (b : BoardId) (q : List Byte) : idAt (encodeId b ++ q) 0 = b := by
  obtain ⟨high, medium, low⟩ := b
  have hhigh : u32At (encodeId ⟨high, medium, low⟩ ++ q) 0 = high := u32At_le32_append high _
  have hmedium : u32At (encodeId ⟨high, medium, low⟩ ++ q) 4 = medium := u32At_le32_append medium (le32 low ++ q)
  have hlow : u32At (encodeId ⟨high, medium, low⟩ ++ q) 8 = low := u32At_le32_append low q
  simp only [idAt, Nat.zero_add, hhigh, hmedium, hlow]

/-- 40_codec R105: a Header record survives the wire. -/
theorem decodeHeader_encodeHeader (h : HeaderRec) : decodeHeader (encodeHeader h) = h := by
  have htarget : idAt (encodeHeader h) 3 = h.target := idAt_encodeId_append h.target []
  rw [decodeHeader, htarget]
  rfl

/-- 40_codec R105: a Body record survives the wire. -/
theorem decodeBody_encodeBody {b : BodyRec} (hb : b.WellFormed) : decodeBody (encodeBody b) = b := by
  have htarget : idAt (encodeBody b) 2 = b.target := idAt_encodeId_append b.target (le16 b.offset ++ b.payload)
  have hoffset : u16At (encodeBody b) 14 = b.offset := u16At_le16_append b.offset b.payload
  have hpayload : ((encodeBody b).drop 16).take 512 = b.payload := List.take_of_length_le hb.le
  rw [decodeBody, htarget, hoffset, hpayload]
  rfl

/-! ## Writing a field that was read -/

theorem byteAt_cons_drop {p : List Byte} {j : Nat} (h : j < p.length) :
    byteAt p j :: p.drop (j + 1) = p.drop j := by
  rw [byteAt_of_lt h, List.cons_getElem_drop_succ]

/-- In a u32 field each byte fills the eight bits that the other three leave clear (30_encoding R73). -/
theorem le32_u32At (p : List Byte) (j : Nat) :
    le32 (u32At p j) = [byteAt p j, byteAt p (j + 1), byteAt p (j + 2), byteAt p (j + 3)] := by
  simp only [le32, u32At, List.cons.injEq, and_true]
  refine ⟨?_, ?_, ?_, ?_⟩ <;> ext i hi <;> grind

theorem le16_u16At (p : List Byte) (j : Nat) : le16 (u16At p j) = [byteAt p j, byteAt p (j + 1)] := by
  simp only [le16, u16At, List.cons.injEq, and_true]
  constructor <;> ext i hi <;> grind

theorem le32_u32At_append_drop {p : List Byte} {j : Nat} (h : j + 4 ≤ p.length) :
    le32 (u32At p j) ++ p.drop (j + 4) = p.drop j := by
  rw [le32_u32At, ← byteAt_cons_drop (j := j) (by omega), ← byteAt_cons_drop (j := j + 1) (by omega),
    ← byteAt_cons_drop (j := j + 2) (by omega), ← byteAt_cons_drop (j := j + 3) (by omega)]
  rfl

theorem le16_u16At_append_drop {p : List Byte} {j : Nat} (h : j + 2 ≤ p.length) :
    le16 (u16At p j) ++ p.drop (j + 2) = p.drop j := by
  rw [le16_u16At, ← byteAt_cons_drop (j := j) (by omega), ← byteAt_cons_drop (j := j + 1) (by omega)]
  rfl

theorem encodeId_idAt_append_drop {p : List Byte} {j : Nat} (h : j + 12 ≤ p.length) :
    encodeId (idAt p j) ++ p.drop (j + 12) = p.drop j := by
  calc encodeId (idAt p j) ++ p.drop (j + 12)
      = le32 (u32At p j) ++ (le32 (u32At p (j + 4)) ++ (le32 (u32At p (j + 8)) ++ p.drop (j + 12))) := by
        simp only [encodeId, idAt, List.append_assoc]
    _ = p.drop j := by
        rw [le32_u32At_append_drop (j := j + 8) (by omega), le32_u32At_append_drop (j := j + 4) (by omega),
          le32_u32At_append_drop (by omega)]

/-- The converse law of 40_codec R105 for Headers. -/
theorem encodeHeader_decodeHeader {p : List Byte} (hlen : p.length = 15) : encodeHeader (decodeHeader p) = p := by
  have hend : p.drop 15 = [] := List.drop_eq_nil_of_le hlen.le
  have htarget : encodeId (idAt p 3) = p.drop 3 := by
    simpa [hend] using encodeId_idAt_append_drop (p := p) (j := 3) (by omega)
  calc encodeHeader (decodeHeader p)
      = byteAt p 0 :: byteAt p 1 :: byteAt p 2 :: p.drop 3 := by rw [← htarget]; rfl
    _ = p := by
        rw [byteAt_cons_drop (by omega), byteAt_cons_drop (by omega), byteAt_cons_drop (by omega), List.drop_zero]

/-- The converse law of 40_codec R105 for Bodies. -/
theorem encodeBody_decodeBody {p : List Byte} (hlen : p.length = 528) : encodeBody (decodeBody p) = p := by
  have hpayload : (p.drop 16).take 512 = p.drop 16 := List.take_of_length_le (by simp [hlen])
  calc encodeBody (decodeBody p)
      = byteAt p 0 :: byteAt p 1 :: (encodeId (idAt p 2) ++ (le16 (u16At p 14) ++ p.drop 16)) := by
        rw [← hpayload]; rfl
    _ = p := by
        rw [le16_u16At_append_drop (by omega), encodeId_idAt_append_drop (by omega),
          byteAt_cons_drop (by omega), byteAt_cons_drop (by omega), List.drop_zero]

theorem decodeBody_wellFormed {p : List Byte} (hlen : p.length = 528) : (decodeBody p).WellFormed := by
  simp [BodyRec.WellFormed, decodeBody, hlen]

/-- Settles O1, from the two round trips of each format. -/
theorem codecIsABijection : Obligations.CodecIsABijection :=
  ⟨fun h => ⟨encodeHeader_length h, decodeHeader_encodeHeader h⟩,
    fun b hb => ⟨by rw [encodeBody_length, hb], decodeBody_encodeBody hb⟩,
    fun _ hlen => encodeHeader_decodeHeader hlen,
    fun _ hlen => ⟨encodeBody_decodeBody hlen, decodeBody_wellFormed hlen⟩⟩

/-! ## Code bytes and classes -/

/-- The code byte `OPCODE_MAP` gives a class, for the classes it names (30_encoding R76). -/
def opCode (om : OpcodeMap) : OpClass → Option Byte
  | .ack => some om.ack
  | .ping => some om.ping
  | .read => some om.read
  | .write => some om.write
  | .exec => some om.exec
  | .unknown => none

/-- The code byte `KIND_MAP` gives a class, for the classes it names (30_encoding R77). -/
def kindCode (km : KindMap) : KindClass → Option Byte
  | .memory => some km.memory
  | .sensors => some km.sensors
  | .code => some km.code
  | .unknown => none

theorem opCode_of_classifyOp {om : OpcodeMap} {v : Byte} {c : OpClass} (h : classifyOp om v = c)
    (hknown : c ≠ .unknown) : opCode om c = some v := by
  unfold classifyOp at h
  split_ifs at h <;> subst h <;> simp_all [opCode]

theorem kindCode_of_classifyKind {km : KindMap} {v : Byte} {c : KindClass} (h : classifyKind km v = c)
    (hknown : c ≠ .unknown) : kindCode km c = some v := by
  unfold classifyKind at h
  split_ifs at h <;> subst h <;> simp_all [kindCode]

/-- Under an injective map no earlier entry of 40_codec R114 takes a class's code byte. -/
theorem classifyOp_of_opCode {om : OpcodeMap} (hom : om.Injective) {c : OpClass} {v : Byte}
    (h : opCode om c = some v) : classifyOp om v = c := by
  cases c <;> simp_all [opCode, classifyOp, OpcodeMap.Injective, eq_comm]

/-- Under an injective map no earlier entry of 40_codec R115 takes a class's code byte. -/
theorem classifyKind_of_kindCode {km : KindMap} (hkm : km.Injective) {c : KindClass} {v : Byte}
    (h : kindCode km c = some v) : classifyKind km v = c := by
  cases c <;> simp_all [kindCode, classifyKind, KindMap.Injective, eq_comm]

/-! ## Decoding what was encoded -/

section Instructions

variable {om : OpcodeMap} {km : KindMap}

theorem classifyOp_entries (hom : om.Injective) :
    classifyOp om om.ack = .ack ∧ classifyOp om om.ping = .ping ∧ classifyOp om om.read = .read ∧
      classifyOp om om.write = .write ∧ classifyOp om om.exec = .exec :=
  ⟨classifyOp_of_opCode hom rfl, classifyOp_of_opCode hom rfl, classifyOp_of_opCode hom rfl,
    classifyOp_of_opCode hom rfl, classifyOp_of_opCode hom rfl⟩

theorem classifyKind_entries (hkm : km.Injective) :
    classifyKind km km.memory = .memory ∧ classifyKind km km.sensors = .sensors ∧
      classifyKind km km.code = .code :=
  ⟨classifyKind_of_kindCode hkm rfl, classifyKind_of_kindCode hkm rfl, classifyKind_of_kindCode hkm rfl⟩

/-- The record comes back by the codec's round trip, the constructor by the class of its code byte. -/
theorem decode_encode (hom : om.Injective) (hkm : km.Injective) {i : Instr} (hi : i.WellFormed) :
    decode om km i.rx i.format (encode om km i) = .instr i := by
  obtain ⟨hack, hping, hread, hwrite, hexec⟩ := classifyOp_entries hom
  obtain ⟨hmemory, hsensors, hcode⟩ := classifyKind_entries hkm
  cases i with
  | ack | ping | read | write | exec =>
    simp only [Instr.rx, Instr.format, encode]
    rw [decode_header_eq om km _ (encodeHeader_length _), decodeHeaderInstr, decodeHeader_encodeHeader]
    simp only [hack, hping, hread, hwrite, hexec]
  | bodyMem | bodySens | bodyCode =>
    simp only [wellFormed_bodyMem, wellFormed_bodySens, wellFormed_bodyCode] at hi
    simp only [Instr.rx, Instr.format, encode]
    rw [decode_body_eq om km _ (by rw [encodeBody_length, hi]), decodeBodyInstr, decodeBody_encodeBody hi]
    simp only [hmemory, hsensors, hcode]

/-! ## Encoding what was decoded -/

/-- A decoded Header is its packet's record, the operation byte the code of the class (40_codec R114). -/
theorem encode_of_decodeHeaderInstr {rx : Link} {p : List Byte} {i : Instr}
    (h : decodeHeaderInstr om rx p = .instr i) :
    encode om km i = encodeHeader (decodeHeader p) ∧ i.rx = rx ∧ i.format = .header := by
  unfold decodeHeaderInstr at h
  cases hclass : classifyOp om (decodeHeader p).op with
  | unknown => simp [hclass] at h
  | ack | ping | read | write | exec =>
    have hcode := Option.some.inj (opCode_of_classifyOp hclass nofun)
    simp only [hclass, Decoded.instr.injEq] at h
    subst h
    exact ⟨by rw [encode, hcode], rfl, rfl⟩

/-- A decoded Body is its packet's record, the kind byte the code of the class (40_codec R115). -/
theorem encode_of_decodeBodyInstr {rx : Link} {p : List Byte} {i : Instr}
    (h : decodeBodyInstr km rx p = .instr i) :
    encode om km i = encodeBody (decodeBody p) ∧ i.rx = rx ∧ i.format = .body := by
  unfold decodeBodyInstr at h
  cases hclass : classifyKind km (decodeBody p).kind with
  | unknown => simp [hclass] at h
  | memory | sensors | code =>
    have hcode := Option.some.inj (kindCode_of_classifyKind hclass nofun)
    simp only [hclass, Decoded.instr.injEq] at h
    subst h
    exact ⟨by rw [encode, hcode], rfl, rfl⟩

/-- Only a packet of its format's length decodes. -/
theorem length_of_decode {rx : Link} {f : Format} {p : List Byte} {i : Instr}
    (h : decode om km rx f p = .instr i) : p.length = f.size := by
  by_contra hlen
  simp [decode, hlen] at h

/-- 40_codec R105 for instructions. -/
theorem encode_of_decode {rx : Link} {f : Format} {p : List Byte} {i : Instr}
    (h : decode om km rx f p = .instr i) : encode om km i = p ∧ i.rx = rx ∧ i.format = f := by
  have hlen : p.length = f.size := length_of_decode h
  cases f with
  | header =>
    rw [decode_header_eq om km rx hlen] at h
    rw [← encodeHeader_decodeHeader hlen]
    exact encode_of_decodeHeaderInstr h
  | body =>
    rw [decode_body_eq om km rx hlen] at h
    rw [← encodeBody_decodeBody hlen]
    exact encode_of_decodeBodyInstr h

end Instructions

/-- Settles O2, by cases on the instruction. -/
theorem decodeOfEncodeGivesTheInstruction : Obligations.DecodeOfEncodeGivesTheInstruction :=
  fun _ _ _ hom hkm hi => decode_encode hom hkm hi

/-- Settles O3, by cases on the format and the class of the code byte. -/
theorem encodeOfDecodeGivesThePacket : Obligations.EncodeOfDecodeGivesThePacket := by
  intro om km rx f p i h
  obtain ⟨hbytes, hrx, hformat⟩ := encode_of_decode h
  exact ⟨hbytes, hrx, hformat, decode_wellFormed h⟩

/-! ## Checksums -/

/-- 40_codec R109: the test compares in mode `verify` only. -/
theorem csumTest_iff (mode : ChecksumMode) (f : List Byte → Byte) (cover : List Byte) (got : Byte) :
    csumTest mode f cover got = true ↔ mode = .none ∨ got = f cover := by
  cases mode with
  | none => simp [csumTest]
  | verify => simp [csumTest]

theorem csumFill_none (f : List Byte → Byte) (cover : List Byte) : csumFill .none f cover = 0x00 := rfl

/-- What the endpoint fills in passes the test over the same covered bytes (40_codec R112, R113). -/
theorem csumTest_csumFill (mode : ChecksumMode) (f : List Byte → Byte) (cover : List Byte) :
    csumTest mode f cover (csumFill mode f cover) = true := by
  cases mode with
  | none => rfl
  | verify => exact beq_self_eq_true (f cover)

/-- Settles O6, from the one test both formats share. -/
theorem checksumAcceptance : Obligations.ChecksumAcceptance :=
  fun _ _ => ⟨csumTest_iff _ _ _ _, csumTest_iff _ _ _ _⟩

/-- The checksum byte is not covered (40_codec R108). -/
theorem coverHeader_encodeHeader_csum (h : HeaderRec) (c : Byte) :
    coverHeader (encodeHeader { h with csum := c }) = coverHeader (encodeHeader h) := rfl

theorem coverBody_encodeBody_csum (b : BodyRec) (c : Byte) :
    coverBody (encodeBody { b with csum := c }) = coverBody (encodeBody b) := rfl

/-- Setting byte 2 of a Header sets the record's checksum, which `gen_header` fills in (40_codec R112). -/
theorem genHeader_eq (cfg : Config) (h : HeaderRec) :
    genHeader cfg h = encodeHeader
      { h with csum := csumFill cfg.checksumMode Config.csumH (coverHeader (encodeHeader h)) } := rfl

/-- Setting byte 1 of a Body sets the record's checksum, which `gen_body` fills in (40_codec R113). -/
theorem genBody_eq (cfg : Config) (b : BodyRec) :
    genBody cfg b = encodeBody
      { b with csum := csumFill cfg.checksumMode Config.csumB (coverBody (encodeBody b)) } := rfl

theorem csumOkHeader_genHeader (cfg : Config) (h : HeaderRec) : csumOkHeader cfg (genHeader cfg h) = true := by
  rw [genHeader_eq, csumOkHeader, coverHeader_encodeHeader_csum]
  exact csumTest_csumFill _ _ _

theorem csumOkBody_genBody (cfg : Config) (b : BodyRec) : csumOkBody cfg (genBody cfg b) = true := by
  rw [genBody_eq, csumOkBody, coverBody_encodeBody_csum]
  exact csumTest_csumFill _ _ _

/-- Settles O7: a built packet is the encoding of its record with the filled checksum. -/
theorem builtPacketsCarryTheirChecksum : Obligations.BuiltPacketsCarryTheirChecksum :=
  ⟨fun cfg h => ⟨csumOkHeader_genHeader cfg h, ⟨_, genHeader_eq cfg h⟩,
      fun hnone => by rw [genHeader_eq, hnone, csumFill_none]⟩,
    fun cfg b => ⟨csumOkBody_genBody cfg b, ⟨_, genBody_eq cfg b⟩,
      fun hnone => by rw [genBody_eq, hnone, csumFill_none]⟩⟩

end Sys2Proof.Machine

/-! # Proofs of the statements about the Header operations (41_header_ops) -/

/-! ## Dispatch

A packet is processed exactly where its link is armed for its size, and the service loop is given no other. -/

namespace Sys2Proof.Machine

/-- The outcome `o` of a packet of format `f` on link `l`, by the armed sizes (41_header_ops R120, R121). -/
def Dispatched (l : Link) (f : Format) (s : State) (o : Host.Outcome State Fault Refusal) : Prop :=
  if armed s.mode l = some f then ∃ t, o = .next t else o = .fault (.undispatched l f)

theorem recvUpHeader_dispatched (p : List Byte) (act : State → State) (s : State) :
    Dispatched .up .header s (recvUpHeader p act s) := by
  cases hm : s.mode <;> simp [Dispatched, recvUpHeader, armed, hm]

theorem recvDnHeader_dispatched (p : List Byte) (idleAct ackAct : State → State) (s : State) :
    Dispatched .dn .header s (recvDnHeader p idleAct ackAct s) := by
  cases hm : s.mode <;> simp [Dispatched, recvDnHeader, armed, hm]

theorem recvRequest_dispatched (rx : Link) (p : List Byte) (code : Byte) (act : State → State) (s : State) :
    Dispatched rx .header s (recvRequest rx p code act s) := by
  cases rx with
  | up => exact recvUpHeader_dispatched p act s
  | dn => exact recvDnHeader_dispatched p _ _ s

theorem recvUnknownHeader_dispatched (rx : Link) (p : List Byte) (code : Byte) (s : State) :
    Dispatched rx .header s (recvUnknownHeader rx p code s) := by
  cases rx with
  | up => exact recvUpHeader_dispatched p _ s
  | dn => exact recvDnHeader_dispatched p _ _ s

theorem recvBody_dispatched (rx : Link) (p : List Byte) (act : State → State) (s : State) :
    Dispatched rx .body s (recvBody rx p act s) := by
  cases rx with
  | up => cases hm : s.mode <;> simp [Dispatched, recvBody, armed, hm]
  | dn => cases hm : s.mode <;> simp [Dispatched, recvBody, armed, hm]

theorem exec_dispatched (i : Instr) (s : State) : Dispatched i.rx i.format s (exec i s) := by
  cases i with
  | ack rx hop csum target =>
    cases rx with
    | up => exact recvUpHeader_dispatched _ _ s
    | dn => exact recvDnHeader_dispatched _ _ _ s
  | ping | read | write | exec => exact recvRequest_dispatched _ _ _ _ s
  | bodyMem | bodySens | bodyCode => exact recvBody_dispatched _ _ _ s

/-- Settles O16, by cases on the instruction and the mode. -/
theorem onlyArmedPacketsAreDispatched : Obligations.OnlyArmedPacketsAreDispatched := exec_dispatched

/-! ### Processing a packet of its format's length -/

section Processing

variable {l : Link} {f : Format} {p : List Byte} {s : State}

theorem procPacket_of_decode {i : Instr} (h : decode s.cfg.opcodeMap s.cfg.kindMap l f p = .instr i) :
    procPacket l f p s = exec i s := by
  simp only [procPacket, h]

theorem procPacket_of_unknownOp {code : Byte}
    (h : decode s.cfg.opcodeMap s.cfg.kindMap l f p = .reject (.unknownOp code)) :
    procPacket l f p s = recvUnknownHeader l p code s := by
  simp only [procPacket, h]

theorem procPacket_of_unknownKind {code : Byte}
    (h : decode s.cfg.opcodeMap s.cfg.kindMap l f p = .reject (.unknownKind code)) :
    procPacket l f p s = recvUnknownBody l p code s := by
  simp only [procPacket, h]

/-- A Header decodes or is rejected by its code byte (30_encoding R82). -/
theorem decode_header_cases (om : OpcodeMap) (km : KindMap) (l : Link) (hlen : p.length = 15) :
    (∃ i, decode om km l .header p = .instr i) ∨
    decode om km l .header p = .reject (.unknownOp (byteAt p 0)) := by
  have h := (onlyUnknownCodesAreRejected om km l p).1 hlen
  split at h
  · exact .inl h
  · exact .inr h

/-- A Body decodes or is rejected by its code byte (30_encoding R83). -/
theorem decode_body_cases (om : OpcodeMap) (km : KindMap) (l : Link) (hlen : p.length = 528) :
    (∃ i, decode om km l .body p = .instr i) ∨
    decode om km l .body p = .reject (.unknownKind (byteAt p 0)) := by
  have h := (onlyUnknownCodesAreRejected om km l p).2 hlen
  split at h
  · exact .inl h
  · exact .inr h

theorem procPacket_dispatched_of_decode {i : Instr}
    (h : decode s.cfg.opcodeMap s.cfg.kindMap l f p = .instr i) :
    Dispatched l f s (procPacket l f p s) := by
  obtain ⟨-, rfl, rfl⟩ := encode_of_decode h
  rw [procPacket_of_decode h]
  exact exec_dispatched i s

theorem procPacket_dispatched (hlen : p.length = f.size) : Dispatched l f s (procPacket l f p s) := by
  cases f with
  | header =>
    rcases decode_header_cases s.cfg.opcodeMap s.cfg.kindMap l hlen with ⟨i, h⟩ | h
    · exact procPacket_dispatched_of_decode h
    · rw [procPacket_of_unknownOp h]
      exact recvUnknownHeader_dispatched l p _ s
  | body =>
    rcases decode_body_cases s.cfg.opcodeMap s.cfg.kindMap l hlen with ⟨i, h⟩ | h
    · exact procPacket_dispatched_of_decode h
    · rw [procPacket_of_unknownKind h]
      exact recvBody_dispatched l p _ s

end Processing

/-! ### No stop -/

theorem need_of_armed {s : State} (h : FramersArmed s) (l : Link) : (s.framer l).need = armed s.mode l := by
  cases l with
  | up => exact h.1
  | dn => exact h.2

/-- A complete framer of an armed endpoint holds a packet that its mode takes (41_header_ops R120, R121). -/
theorem serve_next {s : State} {l : Link} (h : FramersArmed s) (hl : nextServed s = some l) :
    ∃ t, serve l s = .next t := by
  obtain ⟨-, hc⟩ := nextServed_some hl
  obtain ⟨fmt, hneed, hserve⟩ := serve_of_complete hc
  obtain ⟨fmt', hneed', hcnt⟩ := (complete_iff _).mp hc
  cases hneed.symm.trans hneed'
  have harmed : armed s.mode l = some fmt := (need_of_armed h l).symm.trans hneed
  have hdisp : Dispatched l fmt (s.setFramer l ⟨some fmt, []⟩) (serve l s) :=
    hserve ▸ procPacket_dispatched hcnt
  rwa [Dispatched, mode_setFramer, if_pos harmed] at hdisp

/-- The invariant of the loop holds before each pass, so every pass finds the framers armed. -/
theorem serviceLoop_next (n : Nat) {s : State} (h : LoopInv s) : ∃ t, serviceLoop n s = .next t := by
  induction n generalizing s with
  | zero => exact ⟨s, rfl⟩
  | succ n ih =>
    unfold serviceLoop
    cases hl : nextServed s with
    | none => exact ⟨s, rfl⟩
    | some l =>
      obtain ⟨t, ht⟩ := serve_next h.armed hl
      simp only [ht]
      exact ih (serve_loopInv h hl ht)

theorem handle_next (e : Event) {s : State} (h : LoopInv s) : ∃ t, handle e s = .next t := by
  cases e with
  | rxUp b => exact serviceLoop_next 2 (storeByte_loopInv .up b h)
  | rxDn b => exact serviceLoop_next 2 (storeByte_loopInv .dn b h)
  | tick => exact serviceLoop_next 2 (tickTimers_loopInv h)
  | reset => exact ⟨_, rfl⟩
  | powerOn => exact ⟨_, rfl⟩

/-- Settles O15: whatever the event, the service loop runs from a state that meets its invariant. -/
theorem noInputStopsTheEndpoint : Obligations.NoInputStopsTheEndpoint := by
  intro s h
  unfold GoesOn step
  split
  · exact ⟨s, rfl⟩
  · next e rest _ =>
    obtain ⟨hloop, -⟩ := (endpointInv_iff { s with inputs := rest }).mp h
    exact handle_next e hloop

end Sys2Proof.Machine

/-! ## The service loop and the events

Each event is a change of the framers or the timers and then `Service()`; what each of the two does is said once, case
by case. -/

namespace Sys2Proof.Machine

/-- Settles O27: the loop ends when it has nothing to serve, and `Reset` empties both framers. -/
theorem serviceLeavesNoPacketWaiting : Obligations.ServiceLeavesNoPacketWaiting := by
  intro e s t h
  cases e with
  | rxUp | rxDn | tick => exact nextServed_none (service_nextServed h)
  | reset | powerOn => cases h; exact .inr ⟨rfl, rfl⟩

/-! ### What the service loop does -/

theorem service_of_idle {s : State} (h : nextServed s = none) : service s = .next s := by
  simp only [service, serviceLoop, h]

theorem nextServed_of_settling {s : State} (h : 0 < s.settle) : nextServed s = none := by
  simp [nextServed, h]

theorem nextServed_of_incomplete {s : State} (hu : s.up.complete = false) (hd : s.dn.complete = false) :
    nextServed s = none := by
  simp [nextServed, hu, hd]

theorem nextServed_up {s : State} (hs : s.settle = 0) (hu : s.up.complete = true) :
    nextServed s = some .up := by
  simp [nextServed, hs, hu]

theorem nextServed_dn {s : State} (hs : s.settle = 0) (hu : s.up.complete = false)
    (hd : s.dn.complete = true) : nextServed s = some .dn := by
  simp [nextServed, hs, hu, hd]

theorem serviceLoop_of_served {n : Nat} {s t : State} {l : Link} (hl : nextServed s = some l)
    (ht : serve l s = .next t) : serviceLoop (n + 1) s = serviceLoop n t := by
  simp only [serviceLoop, hl, ht]

/-- The last pass answers what its packet answers. -/
theorem serviceLoop_one {s : State} {l : Link} (hl : nextServed s = some l) : serviceLoop 1 s = serve l s := by
  simp only [serviceLoop, hl]
  cases serve l s <;> rfl

/-- With one packet waiting the loop is one pass. -/
theorem service_of_one_waiting {s : State} {l : Link} (hl : nextServed s = some l) (hone : waiting s ≤ 1) :
    service s = serve l s := by
  cases hserve : serve l s with
  | next t =>
    have hnone : nextServed t = none :=
      serviceLoop_nextServed 0 (by have := serve_waiting_lt hl hserve; omega) rfl
    rw [service, serviceLoop_of_served hl hserve]
    simp only [serviceLoop, hnone]
  | fault r => simp only [service, serviceLoop, hl, hserve]
  | refused r => simp only [service, serviceLoop, hl, hserve]

section Complete

variable {s : State} {l : Link} {f : Format} {i : Instr}

theorem complete_of_cnt {fr : Framer} (hneed : fr.need = some f) (hcnt : fr.cnt = f.size) :
    fr.complete = true :=
  (complete_iff fr).mpr ⟨f, hneed, hcnt⟩

/-- Serving a packet that decodes is running its instruction (41_header_ops R125). -/
theorem serve_of_decode (hneed : (s.framer l).need = some f)
    (hdec : decode s.cfg.opcodeMap s.cfg.kindMap l f (s.framer l).got = .instr i) :
    serve l s = exec i (s.setFramer l ⟨some f, []⟩) := by
  have hcomplete := complete_of_cnt hneed (length_of_decode hdec)
  obtain ⟨fmt, hneed', hserve⟩ := serve_of_complete hcomplete
  cases hneed.symm.trans hneed'
  exact hserve.trans (procPacket_of_decode hdec)

/-- A packet that is the only one complete runs, and nothing after it (41_header_ops R125). -/
theorem service_of_decode (hs : s.settle = 0) (hneed : (s.framer l).need = some f)
    (hother : (s.framer (otherLink l)).complete = false)
    (hdec : decode s.cfg.opcodeMap s.cfg.kindMap l f (s.framer l).got = .instr i) :
    service s = exec i (s.setFramer l ⟨some f, []⟩) := by
  have hcomplete := complete_of_cnt hneed (length_of_decode hdec)
  rw [← serve_of_decode hneed hdec]
  cases l with
  | up =>
    have hdn : s.dn.complete = false := hother
    exact service_of_one_waiting (nextServed_up hs hcomplete) (by simp [waiting, hdn, Bool.toNat_le])
  | dn =>
    have hup : s.up.complete = false := hother
    exact service_of_one_waiting (nextServed_dn hs hup hcomplete) (by simp [waiting, hup, Bool.toNat_le])

end Complete

/-! ### Bytes -/

theorem step_rxEvent {s : State} {l : Link} {b : Byte} {rest : List Event}
    (h : s.inputs = rxEvent l b :: rest) : step s = service (storeByte l b { s with inputs := rest }) := by
  cases l <;> simp only [step, h, rxEvent, handle, receive]

theorem storeByte_of_full {s : State} {l : Link} (b : Byte) (h : (s.framer l).full = true) :
    storeByte l b s = { s with err := s.err ||| 0x20 } := by
  simp only [storeByte, h, if_true]
  rfl

/-- A stored byte leaves Idle when it is a Header's (41_header_ops R122, R123). -/
theorem storeByte_of_room {s : State} {l : Link} (b : Byte) (h : (s.framer l).full = false) :
    storeByte l b s = { s.setFramer l ⟨(s.framer l).need, (s.framer l).got ++ [b]⟩ with
      st := if s.mode = .headers ∧ (s.framer l).need = some .header then .awaitingHeader else s.st } := by
  simp only [storeByte, h, Bool.false_eq_true, if_false]
  split
  · next hm hneed => simp [hm, hneed]
  · next hne => rw [if_neg fun hc => hne hc.1 hc.2]; rfl

theorem full_iff (f : Framer) : f.full = true ↔ needBytes f.need = 0 ∨ f.cnt = needBytes f.need := by
  simp [Framer.full]

theorem not_complete_of_cnt_ne {f : Framer} (h : f.cnt ≠ needBytes f.need) : f.complete = false := by
  simp [Framer.complete, h]

/-- The byte that completes a packet leaves it the only one waiting, so the packet runs. -/
theorem service_storeByte_of_last {s : State} {l : Link} {b : Byte} {f : Format} {i : Instr}
    (hs : s.settle = 0) (hneed : (s.framer l).need = some f) (hcnt : (s.framer l).cnt + 1 = f.size)
    (hother : (s.framer (otherLink l)).complete = false)
    (hdec : decode s.cfg.opcodeMap s.cfg.kindMap l f ((s.framer l).got ++ [b]) = .instr i) :
    service (storeByte l b s) = exec i { s.setFramer l ⟨some f, []⟩ with
      st := if s.mode = .headers ∧ f = .header then .awaitingHeader else s.st } := by
  have hroom : (s.framer l).full = false := by
    refine Bool.eq_false_iff.mpr fun hfull => ?_
    rw [full_iff, hneed, needBytes] at hfull
    omega
  rw [storeByte_of_room b hroom]
  simp only [hneed, Option.some.injEq]
  cases l with
  | up => exact service_of_decode (l := .up) hs rfl hother hdec
  | dn => exact service_of_decode (l := .dn) hs rfl hother hdec

/-- Settles O23, at the state whose pending event is consumed. -/
theorem stepRunsTheDecodedInstruction : Obligations.StepRunsTheDecodedInstruction := by
  intro s l b rest f i hin hs hneed hcnt hother hdec
  rw [step_rxEvent hin]
  cases l with
  | up => exact service_storeByte_of_last (s := { s with inputs := rest }) hs hneed hcnt hother hdec
  | dn => exact service_storeByte_of_last (s := { s with inputs := rest }) hs hneed hcnt hother hdec

/-- A byte stored short of its packet's end leaves its framer incomplete. -/
theorem storeByte_incomplete {s : State} {l : Link} (b : Byte)
    (hother : (s.framer (otherLink l)).complete = false) (hl : (s.framer l).complete = false)
    (hcnt : (s.framer l).cnt + 1 ≠ needBytes (s.framer l).need) :
    (storeByte l b s).up.complete = false ∧ (storeByte l b s).dn.complete = false := by
  cases hfull : (s.framer l).full with
  | true =>
    rw [storeByte_of_full b hfull]
    cases l with
    | up => exact ⟨hl, hother⟩
    | dn => exact ⟨hother, hl⟩
  | false =>
    have hstored : (Framer.mk (s.framer l).need ((s.framer l).got ++ [b])).complete = false :=
      not_complete_of_cnt_ne (by simpa [Framer.cnt] using hcnt)
    rw [storeByte_of_room b hfull]
    cases l with
    | up => exact ⟨hstored, hother⟩
    | dn => exact ⟨hother, hstored⟩

@[simp] theorem storeByte_settle (l : Link) (b : Byte) (s : State) : (storeByte l b s).settle = s.settle := by
  cases hfull : (s.framer l).full with
  | true => rw [storeByte_of_full b hfull]
  | false => rw [storeByte_of_room b hfull]; rfl

/-- A byte that completes no packet, or comes during a settle delay, gives the loop nothing to serve. -/
theorem service_storeByte_of_partial {s : State} {l : Link} (b : Byte)
    (h : 0 < s.settle ∨ ((s.framer (otherLink l)).complete = false ∧ (s.framer l).complete = false ∧
      (s.framer l).cnt + 1 ≠ needBytes (s.framer l).need)) :
    service (storeByte l b s) = .next (storeByte l b s) := by
  rcases h with hs | ⟨hother, hl, hcnt⟩
  · exact service_of_idle (nextServed_of_settling (by simpa using hs))
  · obtain ⟨hu, hd⟩ := storeByte_incomplete b hother hl hcnt
    exact service_of_idle (nextServed_of_incomplete hu hd)

/-- Consuming an event changes no framer. -/
theorem framer_inputs (s : State) (es : List Event) (l : Link) :
    State.framer { s with inputs := es } l = s.framer l := by
  cases l <;> rfl

/-- Settles O26: the loop has nothing to serve, so the step is the byte's storing or loss. -/
theorem receivedByteIsStoredOrLost : Obligations.ReceivedByteIsStoredOrLost := by
  intro s l b rest hin h
  have hserve := service_storeByte_of_partial (s := { s with inputs := rest }) (l := l) b
    (by simpa only [framer_inputs] using h)
  rw [step_rxEvent hin, hserve]
  split
  · next hlost =>
    rw [storeByte_of_full b (by rwa [framer_inputs, full_iff])]
  · next hroom =>
    rw [storeByte_of_room b (by rwa [framer_inputs, Bool.eq_false_iff, ne_eq, full_iff]), framer_inputs]
    rfl

/-! ### Ticks -/

theorem step_tick {s t : State} {rest : List Event} (h : s.inputs = .tick :: rest)
    (ht : tickTimers { s with inputs := rest } = t) : step s = service t := by
  simp only [step, h, handle, tick, ht]

section Timers

variable {s : State}

theorem tickTimers_of_settling (h : 1 < s.settle) : tickTimers s = { s with settle := s.settle - 1 } := by
  have hpos : s.settle > 0 := by omega
  have hmore : s.settle - 1 ≠ 0 := by omega
  simp only [tickTimers, hpos, hmore, if_true, if_false]
  cases s.pendDn <;> rfl

/-- The Tick that ends the settle delay emits the pending Header, if there is one (41_header_ops R136). -/
theorem tickTimers_of_lastSettle (h : s.settle = 1) :
    tickTimers s = { s with settle := 0, pendDn := none, dnTx := s.dnTx ++ s.pendDn.getD [] } := by
  cases hq : s.pendDn with
  | none => simp [tickTimers, h, hq]
  | some q => simp [tickTimers, h, hq, emit]

theorem tickTimers_of_waiting (hs : s.settle = 0) (h : 1 < s.waitT) :
    tickTimers s = { s with waitT := s.waitT - 1 } := by
  have hpos : s.waitT > 0 := by omega
  have hmore : s.waitT - 1 ≠ 0 := by omega
  simp [tickTimers, hs, hpos, hmore]

theorem tickTimers_of_lastWait (hs : s.settle = 0) (h : s.waitT = 1) :
    tickTimers s = waitTimeout { s with waitT := 0 } := by
  simp [tickTimers, hs, h]

theorem tickTimers_of_still (hs : s.settle = 0) (h : s.waitT = 0) : tickTimers s = s := by
  simp [tickTimers, hs, h]

end Timers

/-- Settles O28, timer by timer: in each case the loop has nothing to serve. -/
theorem tickCountsDown : Obligations.TickCountsDown := by
  intro s rest hin
  refine ⟨fun hsettling => ?settling, fun hu hd => ⟨fun hlast => ?lastSettle, fun hs hwait => ?waiting,
    fun hs hwait => ?still⟩⟩
  case settling =>
    rw [step_tick hin (tickTimers_of_settling hsettling)]
    exact service_of_idle (nextServed_of_settling (Nat.sub_pos_of_lt hsettling))
  case lastSettle =>
    rw [step_tick hin (tickTimers_of_lastSettle hlast)]
    exact service_of_idle (nextServed_of_incomplete hu hd)
  case waiting =>
    rw [step_tick hin (tickTimers_of_waiting hs hwait)]
    exact service_of_idle (nextServed_of_incomplete hu hd)
  case still =>
    rw [step_tick hin (tickTimers_of_still hs hwait)]
    exact service_of_idle (nextServed_of_incomplete hu hd)

theorem rearmed_incomplete {f : Framer} (n : Option Format) (h : f.complete = false) :
    (rearmed n f).complete = false := by
  rcases rearmed_kept_or_empty n f with he | he
  · rwa [he]
  · exact complete_of_got_nil he

/-- `to_idle()` completes no packet. -/
theorem toIdle_incomplete {s : State} (hu : s.up.complete = false) (hd : s.dn.complete = false) :
    (toIdle s).up.complete = false ∧ (toIdle s).dn.complete = false := by
  rw [toIdle_eq]
  exact ⟨rearmed_incomplete _ hu, rearmed_incomplete _ hd⟩

/-- Settles O29: the timeout is Abort with the action Idle, after which no packet waits. -/
theorem waitTimeoutAborts : Obligations.WaitTimeoutAborts := by
  intro s rest hin hs hwait hu hd
  rw [step_tick hin (tickTimers_of_lastWait hs hwait), waitTimeout, dropToIdle]
  obtain ⟨hu', hd'⟩ := toIdle_incomplete
    (s := raise (.abort .timeout) { s with inputs := rest, waitT := 0 }) hu hd
  rw [service_of_idle (nextServed_of_incomplete hu' hd'), toIdle_eq]
  rfl

/-- Settles O24: after the delay's last Tick the held packet is the only one complete. -/
theorem settleEndRunsTheHeldPacket : Obligations.SettleEndRunsTheHeldPacket := by
  intro s l rest f i hin hs hneed _ hother hdec
  rw [step_tick hin (tickTimers_of_lastSettle hs)]
  cases l with
  | up => exact service_of_decode (l := .up) rfl hneed hother hdec
  | dn => exact service_of_decode (l := .dn) rfl hneed hother hdec

/-! ### Two complete packets -/

/-- When the uplink's packet has run, the downlink's is served unless a settle delay has started or its bytes are
gone (41_header_ops R125). -/
theorem service_of_both {s t : State} {f g : Format} {i j : Instr} (hs : s.settle = 0)
    (hup : s.up.need = some f) (hdn : s.dn.need = some g)
    (hi : decode s.cfg.opcodeMap s.cfg.kindMap .up f s.up.got = .instr i)
    (hj : decode s.cfg.opcodeMap s.cfg.kindMap .dn g s.dn.got = .instr j)
    (ht : exec i (s.setFramer .up ⟨some f, []⟩) = .next t) :
    if t.settle = 0 ∧ t.dn = s.dn then service s = exec j (t.setFramer .dn ⟨some g, []⟩)
    else service s = .next t := by
  have hfirst : serve .up s = .next t := (serve_of_decode (l := .up) hup hi).trans ht
  have hserved : nextServed s = some .up := nextServed_up hs (complete_of_cnt hup (length_of_decode hi))
  have hpass : service s = serviceLoop 1 t := serviceLoop_of_served hserved hfirst
  have hproc := exec_processed ht
  have hupDone : t.up.complete = false :=
    complete_of_got_nil (hproc.up.elim (fun e => by rw [e]; rfl) id)
  split
  · next hheld =>
    obtain ⟨hts, htdn⟩ := hheld
    have hdnDone : t.dn.complete = true := by rw [htdn]; exact complete_of_cnt hdn (length_of_decode hj)
    have hcfg : t.cfg = s.cfg := hproc.cfg
    rw [hpass, serviceLoop_one (nextServed_dn hts hupDone hdnDone)]
    exact serve_of_decode (l := .dn) (by rw [framer_dn, htdn, hdn]) (by rwa [hcfg, framer_dn, htdn])
  · next hgone =>
    have hnone : nextServed t = none := by
      rcases Nat.eq_zero_or_pos t.settle with hts | hts
      · have hlost := hproc.dn.resolve_left fun e => hgone ⟨hts, e⟩
        exact nextServed_of_incomplete hupDone (complete_of_got_nil hlost)
      · exact nextServed_of_settling hts
    simp only [hpass, serviceLoop, hnone]

/-- Settles O25, after the delay's last Tick. -/
theorem uplinkIsServedFirst : Obligations.UplinkIsServedFirst := by
  intro s t rest f g i j hin hs hup _ hdn _ hi hj ht
  rw [step_tick hin (tickTimers_of_lastSettle hs)]
  exact service_of_both
    (s := { s with settle := 0, pendDn := none, dnTx := s.dnTx ++ s.pendDn.getD [], inputs := rest })
    rfl hup hdn hi hj ht

end Sys2Proof.Machine

/-! ## Headers from the uplink

Where Headers are received a Header that passes its checksum test is its operation's action, and most actions end in
`to_idle()`, which there finds both framers armed. -/

namespace Sys2Proof.Machine

theorem need_header_of_headers {s : State} (hm : s.mode = .headers) (h : FramersArmed s) :
    s.up.need = some .header ∧ s.dn.need = some .header :=
  ⟨h.1.trans (by rw [hm]; rfl), h.2.trans (by rw [hm]; rfl)⟩

/-- A good uplink Header outside an exchange (41_header_ops R127). -/
theorem recvUpHeader_of_headers {p : List Byte} {act : State → State} {s : State} (hm : s.mode = .headers)
    (hok : csumOkHeader s.cfg p = true) : recvUpHeader p act s = .next (act s) := by
  simp only [recvUpHeader, hm, procUpHeader, hok, if_true]

/-- What an uplink Header instruction does once received, by its operation (41_header_ops R128 to R134). -/
def upAction (cfg : Config) (i : Instr) : State → State :=
  let p := encode cfg.opcodeMap cfg.kindMap i
  match i with
  | .ping _ hop _ target => pingUp p hop target
  | .read _ hop _ target => openExchange .read p hop target
  | .write _ hop _ target => openExchange .write p hop target
  | _ => toIdle

theorem exec_eq_recvUpHeader {i : Instr} (hrx : i.rx = .up) (hformat : i.format = .header) (s : State) :
    exec i s = recvUpHeader (encode s.cfg.opcodeMap s.cfg.kindMap i) (upAction s.cfg i) s := by
  cases i with
  | ack | ping | read | write | exec => cases hrx; rfl
  | bodyMem | bodySens | bodyCode => cases hformat

/-- A good uplink Header instruction outside an exchange is its operation's action (41_header_ops R127). -/
theorem exec_up_of_headers (i : Instr) {s : State} (hrx : i.rx = .up) (hformat : i.format = .header)
    (hm : s.mode = .headers) (hok : csumOkHeader s.cfg (encode s.cfg.opcodeMap s.cfg.kindMap i) = true) :
    exec i s = .next (upAction s.cfg i s) := by
  rw [exec_eq_recvUpHeader hrx hformat, recvUpHeader_of_headers hm hok]

section Idle

variable {s : State} (hu : s.up.need = some .header) (hd : s.dn.need = some .header)
include hu hd

theorem toIdle_emit_of_headers (l : Link) (p : List Byte) :
    toIdle (emit l p s) = { emit l p s with st := restingSt s.up s.dn, fph := .fwdAck, waitT := 0 } :=
  toIdle_of_headers (s := emit l p s) hu hd

theorem dropToIdle_of_headers (e : EndpointError) :
    dropToIdle e s = { s with
      st := restingSt s.up s.dn, fph := .fwdAck, waitT := 0, err := s.err ||| errorBit e } :=
  toIdle_of_headers (s := raise e s) hu hd

/-- The claim: the Ack goes uplink at once, the Ping downlink at once or when the settle delay ends
(41_header_ops R129). -/
theorem claim_of_headers (hop : Byte) :
    claim hop s =
      if s.cfg.settleTicks = 0 then
        { s with
          st := restingSt s.up s.dn, fph := .fwdAck, waitT := 0
          upTx := s.upTx ++ genHeader s.cfg (makeAck s.cfg (nextHop hop))
          dnTx := s.dnTx ++ genHeader s.cfg (claimPing s.cfg (nextHop hop)) }
      else
        { s with
          st := restingSt s.up s.dn, fph := .fwdAck, waitT := 0
          upTx := s.upTx ++ genHeader s.cfg (makeAck s.cfg (nextHop hop))
          pendDn := some (genHeader s.cfg (claimPing s.cfg (nextHop hop))), settle := s.cfg.settleTicks } := by
  simp only [claim]
  split
  · exact toIdle_of_headers hu hd
  · exact toIdle_of_headers hu hd

end Idle

/-- Settles O30: the Ack's action is `to_idle()` and nothing else. -/
theorem uplinkAckReturnsToIdle : Obligations.UplinkAckReturnsToIdle := by
  intro s hop csum target hm harmed hok
  obtain ⟨hu, hd⟩ := need_header_of_headers hm harmed
  exact (exec_up_of_headers (.ack .up hop csum target) rfl rfl hm hok).trans
    (congrArg _ (toIdle_of_headers hu hd))

/-- Settles O36: an Exec's action is `to_idle()` too, whatever its target. -/
theorem execHeaderReturnsToIdle : Obligations.ExecHeaderReturnsToIdle := by
  intro s hop csum target hm harmed hok
  obtain ⟨hu, hd⟩ := need_header_of_headers hm harmed
  exact (exec_up_of_headers (.exec .up hop csum target) rfl rfl hm hok).trans
    (congrArg _ (toIdle_of_headers hu hd))

/-! ### Ping -/

theorem exec_pingUp_of_headers {s : State} {hop csum : Byte} {target : BoardId} (hm : s.mode = .headers)
    (hok : csumOkHeader s.cfg (encodeHeader ⟨s.cfg.opcodeMap.ping, hop, csum, target⟩) = true) :
    exec (.ping .up hop csum target) s =
      .next (pingUp (encodeHeader ⟨s.cfg.opcodeMap.ping, hop, csum, target⟩) hop target s) :=
  exec_up_of_headers (.ping .up hop csum target) rfl rfl hm hok

/-- The claim's hop count is taken modulo 256 (41_header_ops R139). -/
theorem nextHop_eq (hop : Byte) : nextHop hop = BitVec.ofNat 8 ((hop.toNat + 1) % 256) := by
  apply BitVec.eq_of_toNat_eq
  simp [nextHop, BitVec.toNat_add]

/-- Settles O31: the SENTINEL target is tested first, so the Ping is claimed. -/
theorem sentinelPingIsClaimed : Obligations.SentinelPingIsClaimed := by
  intro s hop csum hm harmed hok
  obtain ⟨hu, hd⟩ := need_header_of_headers hm harmed
  have hclaim : pingUp (encodeHeader ⟨s.cfg.opcodeMap.ping, hop, csum, ⟨0, 0, 0⟩⟩) hop ⟨0, 0, 0⟩ s =
      claim hop s := if_pos rfl
  rw [exec_pingUp_of_headers hm hok, hclaim, claim_of_headers hu hd, nextHop_eq]
  split <;> rfl

/-- Settles O32: OWN_ID is not SENTINEL, so the second test takes the Ping. -/
theorem ownPingIsEchoed : Obligations.OwnPingIsEchoed := by
  intro s hop csum hm harmed hown hok
  obtain ⟨hu, hd⟩ := need_header_of_headers hm harmed
  rw [exec_pingUp_of_headers hm hok, pingUp, if_neg hown, if_pos rfl, echo, toIdle_emit_of_headers hu hd]
  rfl

/-- Settles O33: neither test takes the Ping. -/
theorem othersPingIsForwarded : Obligations.OthersPingIsForwarded := by
  intro s hop csum target hm harmed hsentinel hown hok
  obtain ⟨hu, hd⟩ := need_header_of_headers hm harmed
  rw [exec_pingUp_of_headers hm hok, pingUp, if_neg hsentinel, if_neg hown, forwardPing,
    toIdle_emit_of_headers hu hd]
  rfl

/-! ### Read and Write -/

/-- Re-arming at another size empties the framer (41_header_ops R124). -/
theorem rearmed_of_need_ne {n : Option Format} {f : Framer} (h : f.need ≠ n) : rearmed n f = ⟨n, []⟩ :=
  if_neg h

/-- A Read or Write Header at the owner and at a relay, from framers armed for Headers: the owner's change of size
discards what they hold, a relay's sizes stay (41_header_ops R124, R132, R133). -/
theorem openExchange_of_headers {s : State} (hu : s.up.need = some .header) (hd : s.dn.need = some .header)
    (op : Xop) (p : List Byte) (hop : Byte) (target : BoardId) :
    openExchange op p hop target s =
      if target = s.cfg.ownId then
        { s with
          st := .awaitingBody, xop := op, xtgt := s.cfg.ownId
          settle := s.cfg.settleTicks, waitT := waitLoad s.cfg
          up := ⟨some .body, []⟩, dn := ⟨none, []⟩
          err := s.err ||| lostBy (some .body) s.up ||| lostBy none s.dn
          upTx := s.upTx ++ genHeader s.cfg (makeAck s.cfg hop) }
      else
        { s with
          st := .forwarding, fph := .fwdAck, xop := op, xtgt := target
          waitT := waitLoad s.cfg
          dnTx := s.dnTx ++ p } := by
  unfold openExchange
  split
  · have hup : rearmed (some .body) s.up = ⟨some .body, []⟩ := rearmed_of_need_ne (by simp [hu])
    have hdn : rearmed none s.dn = ⟨none, []⟩ := rearmed_of_need_ne (by simp [hd])
    simp only [openOwned, rearm_eq, State.mode, rxMode, armed, emit_up, emit_dn, hup, hdn]
    rfl
  · exact rearm_of_armed (s := { emit .dn p s with
      st := .forwarding, fph := .fwdAck, xop := op, xtgt := target, waitT := waitLoad s.cfg }) ⟨hu, hd⟩

/-- Settles O34: the two sides of an exchange opened for Read. -/
theorem readHeaderOpensTheExchange : Obligations.ReadHeaderOpensTheExchange := by
  intro s hop csum target hm harmed hok
  obtain ⟨hu, hd⟩ := need_header_of_headers hm harmed
  refine (exec_up_of_headers (.read .up hop csum target) rfl rfl hm hok).trans ?_
  refine (congrArg _ (openExchange_of_headers hu hd ..)).trans ?_
  split <;> rfl

/-- Settles O35: the two sides of an exchange opened for Write. -/
theorem writeHeaderOpensTheExchange : Obligations.WriteHeaderOpensTheExchange := by
  intro s hop csum target hm harmed hok
  obtain ⟨hu, hd⟩ := need_header_of_headers hm harmed
  refine (exec_up_of_headers (.write .up hop csum target) rfl rfl hm hok).trans ?_
  refine (congrArg _ (openExchange_of_headers hu hd ..)).trans ?_
  split <;> rfl

/-! ### Unrecognized operations -/

/-- Settles O37: the Header is rejected by its code byte, and FramingError's action is Idle. -/
theorem unknownOperationIsDropped : Obligations.UnknownOperationIsDropped := by
  intro s p hm harmed hlen hcode hok
  obtain ⟨hu, hd⟩ := need_header_of_headers hm harmed
  have hdec := (onlyUnknownCodesAreRejected s.cfg.opcodeMap s.cfg.kindMap .up p).1 hlen
  rw [if_neg hcode] at hdec
  have hrun : recvUnknownHeader .up p (byteAt p 0) s = .next (dropToIdle (.framing .up (byteAt p 0)) s) :=
    recvUpHeader_of_headers hm hok
  rw [procPacket_of_unknownOp hdec, hrun, dropToIdle_of_headers hu hd]
  rfl

/-! ### Preemption -/

/-- Every uplink Header, recognized or not, is received with an action that its bytes and the parameters fix. -/
theorem procPacket_eq_recvUpHeader (cfg : Config) {p : List Byte} (hlen : p.length = 15) :
    ∃ act, ∀ s : State, s.cfg = cfg → procPacket .up .header p s = recvUpHeader p act s := by
  rcases decode_header_cases cfg.opcodeMap cfg.kindMap .up hlen with ⟨i, hdec⟩ | hdec
  · obtain ⟨hbytes, hrx, hformat⟩ := encode_of_decode hdec
    refine ⟨upAction cfg i, fun s hs => ?_⟩
    subst hs
    rw [procPacket_of_decode hdec, exec_eq_recvUpHeader hrx hformat, hbytes]
  · refine ⟨dropToIdle (.framing .up (byteAt p 0)), fun s hs => ?_⟩
    subst hs
    exact procPacket_of_unknownOp hdec

theorem recvUpHeader_of_relay {p : List Byte} {act : State → State} {s : State}
    (hm : s.mode = .fwdAck ∨ s.mode = .fwdReply) : recvUpHeader p act s = .next (preempt p act s) := by
  rcases hm with hm | hm <;> simp only [recvUpHeader, hm]

/-- The state a preempted relay is left in, the uplink being armed for Headers throughout (43_relay R175). -/
theorem dropToIdle_preempted {s : State} (hu : s.up.need = some .header) :
    dropToIdle (.abort .preempted) s = { s with
      st := restingSt s.up (rearmed (some .header) s.dn), fph := .fwdAck, waitT := 0
      dn := rearmed (some .header) s.dn
      err := s.err ||| 0x80 ||| lostBy (some .header) s.dn } := by
  rw [dropToIdle, toIdle_eq, raise_up, raise_dn, rearmed_of_need hu, lostBy_of_need hu]
  simp [raise, errorBit, errorCode]

/-- Settles O38: both sides receive the same Header with the same action, one of them after the drop to Idle. -/
theorem newHeaderPreemptsTheRelay : Obligations.NewHeaderPreemptsTheRelay := by
  intro s p hm harmed hlen
  have hu : s.up.need = some .header := by
    rw [harmed.1]
    rcases hm with hm | hm <;> rw [hm] <;> rfl
  obtain ⟨act, hact⟩ := procPacket_eq_recvUpHeader s.cfg hlen
  rw [hact s rfl, recvUpHeader_of_relay hm]
  split
  · next hok =>
    have hmode : (dropToIdle (.abort .preempted) s).mode = .headers := toIdle_mode _
    have hcfg : (dropToIdle (.abort .preempted) s).cfg = s.cfg := (dropToIdle_processed _ s).cfg
    have hok' : csumOkHeader (dropToIdle (.abort .preempted) s).cfg p = true := by rwa [hcfg]
    rw [← dropToIdle_preempted hu, hact _ hcfg, recvUpHeader_of_headers hmode hok', preempt, if_pos hok,
      procUpHeader, if_pos hok']
  · next hbad =>
    rw [preempt, if_neg hbad]
    rfl

end Sys2Proof.Machine

/-! ## Runs: a sentinel Ping passes an endpoint in Idle

The Ping's first 14 bytes gather in the uplink framer, the last one runs it, and the Ticks of the settle delay send on
what it left pending. -/

namespace Sys2Proof.Machine

theorem run_succ_of_step {M : Host.Core} {n : Nat} {s t : M.State} (h : M.step s = .next t) :
    M.run (n + 1) s = M.run n t := by
  rw [Host.Core.run, h]

/-- A run in two parts. -/
theorem run_add {M : Host.Core} {m n : Nat} {s t : M.State} (h : M.run m s = .next t) :
    M.run (m + n) s = M.run n t := by
  induction m generalizing s with
  | zero => cases h; rw [Nat.zero_add]
  | succ m ih =>
    rw [Nat.add_right_comm]
    cases hstep : M.step s with
    | next u => rw [run_succ_of_step hstep] at h ⊢; exact ih h
    | fault r => rw [Host.Core.run, hstep] at h; cases h
    | refused r => rw [Host.Core.run, hstep] at h; cases h

/-! ### A Header arriving byte by byte -/

/-- A byte that neither fills the framer of a link armed for a Header nor finds it full. -/
theorem step_headerByte {s : State} {l : Link} {b : Byte} {rest : List Event} (hm : s.mode = .headers)
    (hneed : (s.framer l).need = some .header) (hother : (s.framer (otherLink l)).complete = false)
    (hroom : (s.framer l).cnt + 1 < 15) (hin : s.inputs = rxEvent l b :: rest) :
    step s = .next { s.setFramer l ⟨some .header, (s.framer l).got ++ [b]⟩ with
      st := .awaitingHeader, inputs := rest } := by
  have hsize : needBytes (s.framer l).need = 15 := by rw [hneed]; rfl
  have hstep := receivedByteIsStoredOrLost s l b rest hin
    (.inr ⟨hother, not_complete_of_cnt_ne (by omega), by omega⟩)
  rwa [if_neg (by omega), if_pos ⟨hm, hneed⟩, hneed] at hstep

/-- Bytes that do not fill the framer of a link armed for a Header gather there (41_header_ops R122, R123). -/
theorem run_headerBytes {s : State} {l : Link} {bs : List Byte} {rest : List Event} (hm : s.mode = .headers)
    (hneed : (s.framer l).need = some .header) (hother : (s.framer (otherLink l)).complete = false)
    (hroom : (s.framer l).cnt + bs.length < 15) (hin : s.inputs = bs.map (rxEvent l) ++ rest) :
    Host.Core.run Sys2Proof.core bs.length s =
      .next { s.setFramer l ⟨some .header, (s.framer l).got ++ bs⟩ with
        st := if bs = [] then s.st else .awaitingHeader
        inputs := rest } := by
  induction bs generalizing s with
  | nil =>
    have hrest : s.inputs = rest := hin
    rw [List.append_nil, ← hneed, ← hrest]
    cases l <;> rfl
  | cons b bs ih =>
    rw [List.length_cons] at hroom
    have hstep := step_headerByte hm hneed hother (by omega) hin
    refine (run_succ_of_step (M := Sys2Proof.core) hstep).trans ?_
    have hroom' : ((s.framer l).got ++ [b]).length + bs.length < 15 := by
      rw [List.length_append, List.length_singleton, ← Framer.cnt]
      omega
    rw [ih (mode_of_resting (.inr rfl)) (by cases l <;> rfl) (by cases l <;> exact hother)
      (by cases l <;> exact hroom') rfl]
    cases l <;> simp [State.setFramer]

/-- What the invariant says of an endpoint in Idle with no settle delay running. -/
structure AtRest (s : State) : Prop where
  st : s.st = .idle
  fph : s.fph = .fwdAck
  up : s.up = ⟨some .header, []⟩
  dn : s.dn = ⟨some .header, []⟩
  settle : s.settle = 0
  pendDn : s.pendDn = none
  waitT : s.waitT = 0

theorem framer_eq_of_empty {f : Framer} {n : Option Format} (hneed : f.need = n) (hcnt : f.cnt = 0) :
    f = ⟨n, []⟩ := by
  have hgot : f.got = [] := List.length_eq_zero_iff.mp hcnt
  rw [← hneed, ← hgot]

theorem atRest_of_endpointInv {s : State} (h : EndpointInv s) (hst : s.st = .idle) (hs : s.settle = 0) :
    AtRest s := by
  obtain ⟨hloop, -⟩ := (endpointInv_iff s).mp h
  have hm : s.mode = .headers := mode_of_resting (.inl hst)
  obtain ⟨hu, hd⟩ := need_header_of_headers hm hloop.armed
  obtain ⟨hup, hdn⟩ := hloop.idle.1 hst
  obtain ⟨-, -, -, -, -, hwait⟩ := hloop.timers
  exact {
    st := hst
    fph := fph_of_headers hloop.sequencer hm
    up := framer_eq_of_empty hu hup
    dn := framer_eq_of_empty hd hdn
    settle := hs
    pendDn := hloop.toBaseInv.pendDn_none hs
    waitT := hwait.mpr (.inl hm) }

theorem AtRest.framer {s : State} (h : AtRest s) (l : Link) : s.framer l = ⟨some .header, []⟩ := by
  cases l with
  | up => exact h.up
  | dn => exact h.dn

/-- A Header of 15 bytes that arrives on a link of an endpoint at rest runs in the endpoint as it was, but that `st`
is AwaitingHeader. -/
theorem run_header_of_atRest {s t : State} {l : Link} {p : List Byte} {i : Instr} {rest : List Event}
    (h : AtRest s) (hdec : decode s.cfg.opcodeMap s.cfg.kindMap l .header p = .instr i)
    (ht : exec i { s with st := .awaitingHeader, inputs := rest } = .next t) :
    Host.Core.run Sys2Proof.core 15 { s with inputs := p.map (rxEvent l) ++ rest } = .next t := by
  have hlen : p.length = 15 := length_of_decode hdec
  obtain ⟨front, b, rfl⟩ : ∃ front b, p = front ++ [b] :=
    ⟨_, _, (List.dropLast_append_getLast (List.ne_nil_of_length_pos (by omega))).symm⟩
  have hfront : front.length = 14 := by simpa using hlen
  have hfr := h.framer l
  have hother : (s.framer (otherLink l)).complete = false := by rw [h.framer]; rfl
  have hgather := run_headerBytes (s := { s with inputs := (front ++ [b]).map (rxEvent l) ++ rest }) (l := l)
    (bs := front) (rest := rxEvent l b :: rest) (mode_of_resting (.inl h.st))
    (by rw [framer_inputs, hfr]) (by rwa [framer_inputs])
    (by rw [framer_inputs, hfr, hfront]; decide) (by simp)
  have hne : front ≠ [] := List.ne_nil_of_length_pos (by omega)
  rw [hfront, framer_inputs, hfr, List.nil_append, if_neg hne] at hgather
  rw [show 15 = 14 + 1 from rfl, run_add hgather]
  refine run_succ_of_step (M := Sys2Proof.core) (n := 0) ?_
  have hlast := stepRunsTheDecodedInstruction
    { s.setFramer l ⟨some .header, front⟩ with st := .awaitingHeader, inputs := rxEvent l b :: rest }
    l b rest .header i rfl h.settle (by cases l <;> rfl) (by cases l <;> exact congrArg (· + 1) hfront)
    (by cases l <;> exact hother) (by cases l <;> exact hdec)
  refine hlast.trans (Eq.trans (congrArg (exec i) ?_) ht)
  cases l with
  | up => simp [State.setFramer, ← h.up]
  | dn => simp [State.setFramer, ← h.dn]

/-! ### The settle delay -/

/-- As many Ticks as are left of the settle delay end it, with no packet complete (41_header_ops R136). -/
theorem run_settleTicks {n : Nat} {s : State} {rest : List Event} (hpos : 0 < n) (hs : s.settle = n)
    (hu : s.up.complete = false) (hd : s.dn.complete = false)
    (hin : s.inputs = List.replicate n .tick ++ rest) :
    Host.Core.run Sys2Proof.core n s = .next { s with
      settle := 0, pendDn := none, dnTx := s.dnTx ++ s.pendDn.getD [], inputs := rest } := by
  induction n generalizing s with
  | zero => omega
  | succ n ih =>
    obtain ⟨hmore, hticks⟩ := tickCountsDown s (List.replicate n Event.tick ++ rest) hin
    obtain ⟨hlast, -⟩ := hticks hu hd
    rcases Nat.eq_zero_or_pos n with rfl | hn
    · exact run_succ_of_step (M := Sys2Proof.core) (n := 0) (hlast hs)
    · refine (run_succ_of_step (M := Sys2Proof.core) (hmore (by omega))).trans ?_
      exact ih hn (Nat.sub_eq_of_eq_add hs) hu hd rfl

/-! ### The sentinel Ping -/

/-- A Header with the Ping's code byte decodes to a Ping, under an injective map (40_codec R114). -/
theorem decode_ping {om : OpcodeMap} {km : KindMap} {l : Link} {p : List Byte} (hom : om.Injective)
    (hlen : p.length = 15) (hop : byteAt p 0 = om.ping) :
    decode om km l .header p = .instr (.ping l (byteAt p 1) (byteAt p 2) (idAt p 3)) := by
  obtain ⟨-, hclass, -⟩ := classifyOp_entries hom
  rw [← hop] at hclass
  simp [decode_header_eq om km l hlen, decodeHeaderInstr, decodeHeader, hclass]

/-- The claim by an endpoint at rest whose framer has just been emptied: it is at rest again, or waits for the end of
the settle delay (41_header_ops R129). -/
theorem exec_sentinelPing_of_atRest {s : State} (h : AtRest s) {hop csum : Byte}
    (hok : csumOkHeader s.cfg (encodeHeader ⟨s.cfg.opcodeMap.ping, hop, csum, BoardId.sentinel⟩) = true)
    (rest : List Event) :
    exec (.ping .up hop csum BoardId.sentinel) { s with st := .awaitingHeader, inputs := rest } =
      if s.cfg.settleTicks = 0 then
        .next { s with
          inputs := rest
          upTx := s.upTx ++ genHeader s.cfg (makeAck s.cfg (nextHop hop))
          dnTx := s.dnTx ++ genHeader s.cfg (claimPing s.cfg (nextHop hop)) }
      else
        .next { s with
          inputs := rest
          upTx := s.upTx ++ genHeader s.cfg (makeAck s.cfg (nextHop hop))
          pendDn := some (genHeader s.cfg (claimPing s.cfg (nextHop hop))), settle := s.cfg.settleTicks } := by
  have hrest : restingSt s.up s.dn = s.st := by rw [h.up, h.dn, h.st]; rfl
  have hm : State.mode { s with st := .awaitingHeader, inputs := rest } = .headers := mode_of_resting (.inr rfl)
  have hu : s.up.need = some .header := by rw [h.up]
  have hd : s.dn.need = some .header := by rw [h.dn]
  rw [exec_pingUp_of_headers hm hok, pingUp, if_pos rfl,
    claim_of_headers (s := { s with st := .awaitingHeader, inputs := rest }) hu hd]
  simp only [hrest, ← h.fph, ← h.waitT]
  split <;> rfl

/-- Settles O56: the Ping runs on its last byte, and the delay's Ticks send on what the claim left pending. -/
theorem sentinelPingIsClaimedAndPassedOn : Obligations.SentinelPingIsClaimedAndPassedOn := by
  intro s p hinv hidle hs hlen hop htarget hok
  have hrest := atRest_of_endpointInv hinv hidle hs
  obtain ⟨⟨-, hom, -⟩, -⟩ := hinv
  have hdec := decode_ping (km := s.cfg.kindMap) (l := .up) hom hlen hop
  have hbytes := (encode_of_decode hdec).1
  rw [htarget] at hdec hbytes
  have hclaim := exec_sentinelPing_of_atRest hrest (hop := byteAt p 1) (csum := byteAt p 2)
    (by rw [← hbytes] at hok; exact hok) (List.replicate s.cfg.settleTicks .tick)
  split at hclaim
  · next hticks =>
    rw [hticks] at hclaim ⊢
    exact run_header_of_atRest hrest hdec hclaim
  · next hticks =>
    refine (run_add (M := Sys2Proof.core) (run_header_of_atRest hrest hdec hclaim)).trans ?_
    refine (run_settleTicks (Nat.pos_of_ne_zero hticks) rfl (by rw [hrest.up]; rfl) (by rw [hrest.dn]; rfl)
      (List.append_nil _).symm).trans ?_
    simp only [← hrest.settle, ← hrest.pendDn]
    rfl

end Sys2Proof.Machine

/-! # Proofs of the statements about the Body operations (42_body_ops)

At the owner a Body that passes the checksum and target tests is its kind's action, and every action ends in
`to_idle()`, which there re-arms both framers for Headers and finds nothing to discard. -/

namespace Sys2Proof.Machine

/-! ## The owner's tests -/

/-- A good Body at the owner (42_body_ops R151). -/
theorem recvBody_of_owner {p : List Byte} {act : State → State} {s : State} (hm : s.mode = .ownerBody)
    (hok : csumOkBody s.cfg p = true) : recvBody .up p act s = .next (act s) := by
  simp only [recvBody, hm, ownerBody, hok, if_true]

theorem checkTarget_self (act : State → State) (s : State) : checkTarget s.xtgt act s = act s := if_pos rfl

theorem checkTarget_of_ne {target : BoardId} {s : State} (act : State → State) (h : target ≠ s.xtgt) :
    checkTarget target act s = dropToIdle (.targetMismatch target) s := if_neg h

theorem inRange_iff (cfg : Config) (addr : Nat) : inRange cfg addr = true ↔ addr + 512 ≤ cfg.memBytes :=
  decide_eq_true_iff

/-! ## The actions of a Memory Body -/

section Memory

variable {s : State} {csum : Byte} {offset : Half} {payload : List Byte} (hm : s.mode = .ownerBody)
  (hok : csumOkBody s.cfg (encodeBody ⟨s.cfg.kindMap.memory, csum, s.xtgt, offset, payload⟩) = true)
include hm hok

/-- A Memory Body for the exchange's target runs its action (42_body_ops R151). -/
theorem exec_bodyMem_of_owner :
    exec (.bodyMem .up csum s.xtgt offset payload) s =
      .next (memoryBody ⟨s.cfg.kindMap.memory, csum, s.xtgt, offset, payload⟩ s) :=
  (recvBody_of_owner hm hok).trans (congrArg _ (checkTarget_self _ s))

theorem exec_bodyMem_of_write (hin : offset.toNat * 512 + 512 ≤ s.cfg.memBytes) (hop : s.xop = .write) :
    exec (.bodyMem .up csum s.xtgt offset payload) s =
      .next (writeBlock (offset.toNat * 512) payload s) := by
  rw [exec_bodyMem_of_owner hm hok]
  simp only [memoryBody, blockAddr_eq, (inRange_iff _ _).mpr hin, if_true, hop]

theorem exec_bodyMem_of_read (hin : offset.toNat * 512 + 512 ≤ s.cfg.memBytes) (hop : s.xop = .read) :
    exec (.bodyMem .up csum s.xtgt offset payload) s =
      .next (readBlock (offset.toNat * 512)
        ⟨s.cfg.kindMap.memory, csum, s.xtgt, offset, payload⟩ s) := by
  rw [exec_bodyMem_of_owner hm hok]
  simp only [memoryBody, blockAddr_eq, (inRange_iff _ _).mpr hin, if_true, hop]

theorem exec_bodyMem_of_outOfRange (hout : s.cfg.memBytes < offset.toNat * 512 + 512) :
    exec (.bodyMem .up csum s.xtgt offset payload) s = .next (dropToIdle (.address offset) s) := by
  have hrange : ¬ inRange s.cfg (offset.toNat * 512) = true := (inRange_iff _ _).not.mpr (by omega)
  rw [exec_bodyMem_of_owner hm hok]
  simp only [memoryBody, blockAddr_eq, if_neg hrange]

end Memory

theorem writeBlock_mem (addr : Nat) (payload : List Byte) (s : State) :
    (writeBlock addr payload s).mem = memWrite s.mem addr payload := toIdle_mem _

@[simp] theorem toIdle_upTx (s : State) : (toIdle s).upTx = s.upTx := by rw [toIdle_eq]

theorem readBlock_upTx (addr : Nat) (b : BodyRec) (s : State) :
    (readBlock addr b s).upTx = s.upTx ++ genBody s.cfg (reply s.cfg b (memRead s.mem addr payloadSize)) :=
  toIdle_upTx _

/-- Settles O49: both Bodies name one block, and the read of a block returns what the write of it left. -/
theorem writeThenReadReturnsThePayload : Obligations.WriteThenReadReturnsThePayload := by
  intro s t u csum csum' offset payload payload' hm hop hwf hlen hok hin hexec hcfg hmem hm' hop' hok'
  rw [exec_bodyMem_of_write hm hok hin hop] at hexec
  cases hexec
  have hin' : offset.toNat * 512 + 512 ≤ u.cfg.memBytes := hcfg ▸ hin
  have hread : memRead u.mem (offset.toNat * 512) payloadSize = payload := by
    rw [hmem, writeBlock_mem, show payloadSize = payload.length from hlen.symm, memRead_memWrite hwf]
  refine ⟨_, exec_bodyMem_of_read hm' hok' hin' hop', ?_⟩
  rw [readBlock_upTx, hread]
  rfl

/-! ## The owner's return to Idle -/

section Owner

variable {s : State} (hu : s.up = ⟨some .body, []⟩) (hd : s.dn = ⟨none, []⟩)
include hu hd

/-- From an owner's empty framers `to_idle()` loses nothing, so it raises no Overrun (41_header_ops R124, R126). -/
theorem toIdle_of_owner :
    toIdle s = { s with
      st := .idle, fph := .fwdAck, waitT := 0
      up := ⟨some .header, []⟩, dn := ⟨some .header, []⟩ } := by
  rw [toIdle_eq, hu, hd]
  simp [rearmed, lostBy, restingSt, Framer.cnt]

theorem dropToIdle_of_owner (e : EndpointError) :
    dropToIdle e s = { s with
      st := .idle, fph := .fwdAck, waitT := 0, err := s.err ||| errorBit e
      up := ⟨some .header, []⟩, dn := ⟨some .header, []⟩ } :=
  toIdle_of_owner (s := raise e s) hu hd

/-- A good Body whose action is an error's is dropped: the error's bit is set, and nothing is stored or emitted. -/
theorem recvBody_of_owner_dropping {p : List Byte} {act : State → State} {e : EndpointError}
    (hm : s.mode = .ownerBody) (hok : csumOkBody s.cfg p = true) (hact : act s = dropToIdle e s) :
    recvBody .up p act s = .next { s with
      st := .idle, fph := .fwdAck, waitT := 0, err := s.err ||| errorBit e
      up := ⟨some .header, []⟩, dn := ⟨some .header, []⟩ } := by
  rw [recvBody_of_owner hm hok, hact, dropToIdle_of_owner hu hd]

end Owner

/-- Settles O43: the memory that results is the `MemWrite` of the block. -/
theorem writeBodyStoresThePayload : Obligations.WriteBodyStoresThePayload := by
  intro s csum offset payload hm hu hd hop hlen hwf hok hin
  refine ⟨memWrite s.mem (offset.toNat * 512) payload, ?_, fun a => ?_⟩
  · rw [exec_bodyMem_of_write hm hok hin hop, writeBlock]
    exact congrArg _ (toIdle_of_owner hu hd)
  · rw [read_memWrite hwf, hlen]

/-- Settles O44: the reply is built from the request's kind and offset, and its payload by `MemRead`. -/
theorem readBodyRepliesWithMemory : Obligations.ReadBodyRepliesWithMemory := by
  intro s csum offset payload hm hu hd hop hok hin
  rw [exec_bodyMem_of_read hm hok hin hop, readBlock]
  exact congrArg _ (toIdle_of_owner hu hd)

/-- Settles O45: the two reserved kinds have one action. -/
theorem reservedKindsAreDropped : Obligations.ReservedKindsAreDropped := by
  intro s csum offset payload hm hu hd
  exact ⟨fun hok => recvBody_of_owner_dropping hu hd hm hok (checkTarget_self _ s),
    fun hok => recvBody_of_owner_dropping hu hd hm hok (checkTarget_self _ s)⟩

/-- Settles O46: the target test comes before the kind's action, whatever the kind. -/
theorem wrongTargetBodyIsDropped : Obligations.WrongTargetBodyIsDropped := by
  intro s i csum target offset payload hi hm hu hd htgt hok
  rcases hi with rfl | rfl | rfl
  · exact recvBody_of_owner_dropping hu hd hm hok (checkTarget_of_ne _ htgt)
  · exact recvBody_of_owner_dropping hu hd hm hok (checkTarget_of_ne _ htgt)
  · exact recvBody_of_owner_dropping hu hd hm hok (checkTarget_of_ne _ htgt)

/-- Settles O47: the range test comes before the exchange's operation. -/
theorem outOfRangeBodyIsDropped : Obligations.OutOfRangeBodyIsDropped := by
  intro s csum offset payload hm hu hd hout hok
  rw [exec_bodyMem_of_outOfRange hm hok hout, dropToIdle_of_owner hu hd]
  rfl

/-- Settles O48: the Body is rejected by its kind byte, before any test of its target or offset. -/
theorem unknownKindIsDroppedAtTheOwner : Obligations.UnknownKindIsDroppedAtTheOwner := by
  intro s p hm hu hd hlen hcode hok
  have hdec := (onlyUnknownCodesAreRejected s.cfg.opcodeMap s.cfg.kindMap .up p).2 hlen
  rw [if_neg hcode] at hdec
  rw [procPacket_of_unknownKind hdec]
  exact recvBody_of_owner_dropping hu hd hm hok rfl

end Sys2Proof.Machine

/-! # Proofs of the statements about relaying (43_relay) -/

/-! ## Headers from the downlink

A downlink Header that passes its checksum test is one of two actions, outside an exchange and in a relay that waits for
the Ack. -/

namespace Sys2Proof.Machine

/-- A good downlink Header outside an exchange (43_relay R176). -/
theorem recvDnHeader_of_headers {p : List Byte} {idleAct ackAct : State → State} {s : State}
    (hm : s.mode = .headers) (hok : csumOkHeader s.cfg p = true) :
    recvDnHeader p idleAct ackAct s = .next (idleAct s) := by
  simp only [recvDnHeader, hm, downHeader, hok, if_true]

/-- A good downlink Header in a relay that waits for the Ack (43_relay R171). -/
theorem recvDnHeader_of_fwdAck {p : List Byte} {idleAct ackAct : State → State} {s : State}
    (hm : s.mode = .fwdAck) (hok : csumOkHeader s.cfg p = true) :
    recvDnHeader p idleAct ackAct s = .next (ackAct s) := by
  simp only [recvDnHeader, hm, fwdAckHeader, hok, if_true]

/-- A relay that waits for the Ack receives Headers on both links, as an endpoint outside an exchange does
(41_header_ops R121). -/
theorem need_header_of_dnHeader {s : State} (hm : s.mode = .headers ∨ s.mode = .fwdAck) (h : FramersArmed s) :
    s.up.need = some .header ∧ s.dn.need = some .header := by
  rcases hm with hm | hm
  · exact need_header_of_headers hm h
  · exact ⟨h.1.trans (by rw [hm]; rfl), h.2.trans (by rw [hm]; rfl)⟩

/-! ### Ack -/

section Ack

variable {s : State} {hop csum : Byte} {target : BoardId}
  (hok : csumOkHeader s.cfg (encodeHeader ⟨s.cfg.opcodeMap.ack, hop, csum, target⟩) = true)
include hok

theorem exec_ackDn_of_headers (hm : s.mode = .headers) :
    exec (.ack .dn hop csum target) s =
      .next (refreshIdle (emit .up (encodeHeader ⟨s.cfg.opcodeMap.ack, hop, csum, target⟩) s)) :=
  recvDnHeader_of_headers hm hok

theorem exec_ackDn_of_fwdAck (hm : s.mode = .fwdAck) :
    exec (.ack .dn hop csum target) s =
      .next (enterPhase .fwdBody (emit .up (encodeHeader ⟨s.cfg.opcodeMap.ack, hop, csum, target⟩) s)) :=
  recvDnHeader_of_fwdAck hm hok

end Ack

/-- Settles O39: `refresh_idle()` leaves the streams as the emission made them. -/
theorem downlinkAckIsRelayedInIdle : Obligations.DownlinkAckIsRelayedInIdle := by
  intro s hop csum target hm hok
  rw [exec_ackDn_of_headers hok hm, refreshIdle_of_headers (by rwa [mode_emit])]
  rfl

/-- The phase FWD_BODY takes a Body on the uplink and nothing on the downlink, so a Header begun on either link is
lost (41_header_ops R121, R124; 43_relay R171). -/
theorem enterPhase_fwdBody {s : State} (hst : s.st = .forwarding) (hu : s.up.need = some .header)
    (hd : s.dn.need = some .header) :
    enterPhase .fwdBody s = { s with
      fph := .fwdBody, waitT := waitLoad s.cfg
      up := ⟨some .body, []⟩, dn := ⟨none, []⟩
      err := s.err ||| lostBy (some .body) s.up ||| lostBy none s.dn } := by
  have hup : rearmed (some .body) s.up = ⟨some .body, []⟩ := rearmed_of_need_ne (by simp [hu])
  have hdn : rearmed none s.dn = ⟨none, []⟩ := rearmed_of_need_ne (by simp [hd])
  simp only [enterPhase_eq, hst, rxMode, armed, hup, hdn]

/-- Settles O40: the Ack is emitted before the framers are armed for the next phase. -/
theorem downlinkAckAdvancesTheRelay : Obligations.DownlinkAckAdvancesTheRelay := by
  intro s hop csum target hm harmed hok
  obtain ⟨hu, hd⟩ := need_header_of_dnHeader (.inr hm) harmed
  rw [exec_ackDn_of_fwdAck hok hm]
  exact congrArg _ (enterPhase_fwdBody (s := emit .up _ s) (forwarding_of_mode (.inl hm)) hu hd)

/-! ### Requests and unrecognized operations -/

/-- The errors of a downlink request do not depend on which request it is, but for the code they record
(43_relay R172, R177). -/
theorem exec_dnRequest {i : Instr} {hop csum : Byte} {target : BoardId}
    (hi : i = .ping .dn hop csum target ∨ i = .read .dn hop csum target ∨
      i = .write .dn hop csum target ∨ i = .exec .dn hop csum target) (s : State) :
    ∃ code, exec i s = recvDnHeader (encode s.cfg.opcodeMap s.cfg.kindMap i)
      (unexpectedIdle code) (unexpectedFwdAck code) s := by
  rcases hi with rfl | rfl | rfl | rfl
  · exact ⟨s.cfg.opcodeMap.ping, rfl⟩
  · exact ⟨s.cfg.opcodeMap.read, rfl⟩
  · exact ⟨s.cfg.opcodeMap.write, rfl⟩
  · exact ⟨s.cfg.opcodeMap.exec, rfl⟩

/-- Settles O41: Unexpected is raised in both modes, and only outside an exchange is `st` refreshed. -/
theorem downlinkRequestIsUnexpected : Obligations.DownlinkRequestIsUnexpected := by
  intro s i hop csum target hi hok
  obtain ⟨code, hexec⟩ := exec_dnRequest hi s
  refine ⟨fun hm => ?outside, fun hm => ?relay⟩
  case outside =>
    rw [hexec, recvDnHeader_of_headers hm hok, unexpectedIdle, refreshIdle_of_headers (by rwa [mode_raise])]
    rfl
  case relay =>
    rw [hexec, recvDnHeader_of_fwdAck hm hok]
    rfl

/-- Settles O42: both modes have FramingError's action, and both find the framers armed for Headers. -/
theorem unknownDownlinkHeaderIsDropped : Obligations.UnknownDownlinkHeaderIsDropped := by
  intro s p hm harmed hlen hcode hok
  obtain ⟨hu, hd⟩ := need_header_of_dnHeader hm harmed
  have hdec := (onlyUnknownCodesAreRejected s.cfg.opcodeMap s.cfg.kindMap .dn p).1 hlen
  rw [if_neg hcode] at hdec
  have hrun : recvUnknownHeader .dn p (byteAt p 0) s = .next (dropToIdle (.framing .dn (byteAt p 0)) s) := by
    rcases hm with hm | hm
    · exact recvDnHeader_of_headers hm hok
    · exact recvDnHeader_of_fwdAck hm hok
  rw [procPacket_of_unknownOp hdec, hrun, dropToIdle_of_headers hu hd]
  rfl

end Sys2Proof.Machine

/-! ## Bodies at a relay

A relay treats a Body by its bytes alone: its kind, recognized or not, its target and its offset decide only what an
owner does. -/

namespace Sys2Proof.Machine

theorem exec_eq_recvBody {i : Instr} (hformat : i.format = .body) (s : State) :
    ∃ act, exec i s = recvBody i.rx (encode s.cfg.opcodeMap s.cfg.kindMap i) act s := by
  cases i with
  | ack | ping | read | write | exec => cases hformat
  | bodyMem | bodySens | bodyCode => exact ⟨_, rfl⟩

/-- Every Body, recognized or not, is received by its bytes and an action for the owner (43_relay R180). -/
theorem procPacket_eq_recvBody (l : Link) {p : List Byte} (hlen : p.length = 528) (s : State) :
    ∃ act, procPacket l .body p s = recvBody l p act s := by
  rcases decode_body_cases s.cfg.opcodeMap s.cfg.kindMap l hlen with ⟨i, hdec⟩ | hdec
  · obtain ⟨hbytes, rfl, hformat⟩ := encode_of_decode hdec
    obtain ⟨act, hexec⟩ := exec_eq_recvBody hformat s
    exact ⟨act, by rw [procPacket_of_decode hdec, hexec, hbytes]⟩
  · exact ⟨_, procPacket_of_unknownKind hdec⟩

theorem recvBody_of_fwdBody {p : List Byte} {act : State → State} {s : State} (hm : s.mode = .fwdBody) :
    recvBody .up p act s = .next (fwdBody p s) := by
  simp only [recvBody, hm]

theorem recvBody_of_fwdReply {p : List Byte} {act : State → State} {s : State} (hm : s.mode = .fwdReply) :
    recvBody .dn p act s = .next (fwdReply p s) := by
  simp only [recvBody, hm]

/-! ### The uplink Body -/

section FwdBody

variable {s : State} {p : List Byte}

theorem fwdBody_of_write (hok : csumOkBody s.cfg p = true) (hop : s.xop = .write) :
    fwdBody p s = toIdle (emit .dn p s) := by
  simp only [fwdBody, hok, if_true, emit_xop, hop]

theorem fwdBody_of_read (hok : csumOkBody s.cfg p = true) (hop : s.xop = .read) :
    fwdBody p s = enterPhase .fwdReply (emit .dn p s) := by
  simp only [fwdBody, hok, if_true, emit_xop, hop]

/-- From empty framers entering FWD_REPLY loses nothing (41_header_ops R124, 43_relay R173). -/
theorem enterPhase_fwdReply (hst : s.st = .forwarding) (hu : s.up = ⟨some .body, []⟩) (hd : s.dn = ⟨none, []⟩) :
    enterPhase .fwdReply s = { s with
      fph := .fwdReply, waitT := waitLoad s.cfg
      up := ⟨some .header, []⟩, dn := ⟨some .body, []⟩ } := by
  rw [enterPhase_eq, hst, hu, hd]
  simp [rxMode, armed, rearmed, lostBy, Framer.cnt]

/-- All that a relay does with an uplink Body, its framers as the service loop leaves them (43_relay R173). -/
theorem fwdBody_eq (hst : s.st = .forwarding) (hu : s.up = ⟨some .body, []⟩) (hd : s.dn = ⟨none, []⟩) :
    fwdBody p s =
      if csumOkBody s.cfg p then
        match s.xop with
        | .write => { s with
            st := .idle, fph := .fwdAck, waitT := 0
            up := ⟨some .header, []⟩, dn := ⟨some .header, []⟩, dnTx := s.dnTx ++ p }
        | .read => { s with
            fph := .fwdReply, waitT := waitLoad s.cfg
            up := ⟨some .header, []⟩, dn := ⟨some .body, []⟩, dnTx := s.dnTx ++ p }
      else { s with err := s.err ||| 0x02 } := by
  split
  · next hok =>
    cases hop : s.xop with
    | write => rw [fwdBody_of_write hok hop, toIdle_of_owner (s := emit .dn p s) hu hd]; simp [emit, hop]
    | read => rw [fwdBody_of_read hok hop, enterPhase_fwdReply (s := emit .dn p s) hst hu hd]; simp [emit, hop]
  · next hbad =>
    rw [fwdBody, if_neg hbad]
    rfl

end FwdBody

/-- Settles O50: the Body is received as any Body is, and FWD_BODY does not look into it. -/
theorem relayForwardsTheBody : Obligations.RelayForwardsTheBody := by
  intro s p hm hu hd hlen
  obtain ⟨act, hproc⟩ := procPacket_eq_recvBody .up hlen s
  rw [hproc, recvBody_of_fwdBody hm, fwdBody_eq (forwarding_of_mode (.inr (.inl hm))) hu hd]
  split
  · cases s.xop <;> rfl
  · rfl

/-! ### The downlink reply -/

section FwdReply

variable {s : State} {p : List Byte}

theorem fwdReply_of_ok (hok : csumOkBody s.cfg p = true) : fwdReply p s = toIdle (emit .up p s) := if_pos hok

/-- All that a relay does with a reply; an uplink Header begun meanwhile stays (41_header_ops R124, 43_relay R174). -/
theorem fwdReply_eq (hu : s.up.need = some .header) (hd : s.dn = ⟨some .body, []⟩) :
    fwdReply p s =
      if csumOkBody s.cfg p then { s with
        st := restingSt s.up ⟨some .header, []⟩, fph := .fwdAck, waitT := 0
        dn := ⟨some .header, []⟩, upTx := s.upTx ++ p }
      else { s with err := s.err ||| 0x02 } := by
  split
  · next hok =>
    rw [fwdReply_of_ok hok, toIdle_eq, emit_up, emit_dn, rearmed_of_need hu, lostBy_of_need hu, hd]
    simp [emit, rearmed, lostBy, Framer.cnt]
  · next hbad =>
    rw [fwdReply, if_neg hbad]
    rfl

end FwdReply

/-- Settles O51: the reply is received as any Body is, and FWD_REPLY does not look into it. -/
theorem relayReturnsTheReply : Obligations.RelayReturnsTheReply := by
  intro s p hm hu hd hlen
  obtain ⟨act, hproc⟩ := procPacket_eq_recvBody .dn hlen s
  rw [hproc, recvBody_of_fwdReply hm, fwdReply_eq hu hd]
  split <;> rfl

/-- Settles O52: the three kinds are received alike, by what a relay does with their bytes. -/
theorem bodyInstructionsPassARelay : Obligations.BodyInstructionsPassARelay := by
  intro s i hformat _ hok
  obtain ⟨act, hexec⟩ := exec_eq_recvBody hformat s
  refine ⟨fun hm hrx hu hd => ?fwdBody, fun hm hrx hu hd => ?fwdReply⟩
  case fwdBody =>
    have hst : s.st = .forwarding := forwarding_of_mode (.inr (.inl hm))
    rw [hexec, hrx, recvBody_of_fwdBody hm, fwdBody_eq hst hu hd, if_pos hok]
    refine ⟨fun hop => ?_, fun hop => ?_⟩
    · rw [hop]
    · rw [hop]; rfl
  case fwdReply =>
    rw [hexec, hrx, recvBody_of_fwdReply hm, fwdReply_eq hu hd, if_pos hok]

end Sys2Proof.Machine

/-! ## Relayed packets

Whatever a relay does after it emits a packet leaves the transmit streams alone, in every state. -/

namespace Sys2Proof.Machine

@[simp] theorem toIdle_dnTx (s : State) : (toIdle s).dnTx = s.dnTx := by rw [toIdle_eq]

@[simp] theorem enterPhase_upTx (f : Fph) (s : State) : (enterPhase f s).upTx = s.upTx := by rw [enterPhase_eq]

@[simp] theorem enterPhase_dnTx (f : Fph) (s : State) : (enterPhase f s).dnTx = s.dnTx := by rw [enterPhase_eq]

@[simp] theorem refreshIdle_upTx (s : State) : (refreshIdle s).upTx = s.upTx := by
  by_cases h : s.mode = .headers
  · rw [refreshIdle_of_headers h]
  · rw [refreshIdle_of_not_headers h]

@[simp] theorem refreshIdle_dnTx (s : State) : (refreshIdle s).dnTx = s.dnTx := by
  by_cases h : s.mode = .headers
  · rw [refreshIdle_of_headers h]
  · rw [refreshIdle_of_not_headers h]

/-- A Header's bytes are those of its fields (40_codec R105). -/
theorem encodeHeader_of_code {p : List Byte} {code : Byte} (hlen : p.length = 15) (hop : byteAt p 0 = code) :
    encodeHeader ⟨code, byteAt p 1, byteAt p 2, idAt p 3⟩ = p := by
  rw [← hop]
  exact encodeHeader_decodeHeader hlen

/-- A Header with the Ack's code byte decodes to an Ack, under an injective map (40_codec R114). -/
theorem decode_ack {om : OpcodeMap} {km : KindMap} {l : Link} {p : List Byte} (hom : om.Injective)
    (hlen : p.length = 15) (hop : byteAt p 0 = om.ack) :
    decode om km l .header p = .instr (.ack l (byteAt p 1) (byteAt p 2) (idAt p 3)) := by
  obtain ⟨hclass, -⟩ := classifyOp_entries hom
  rw [← hop] at hclass
  simp [decode_header_eq om km l hlen, decodeHeaderInstr, decodeHeader, hclass]

section Streams

variable {s : State} {p : List Byte}

/-- 43_relay R178 for R131. -/
theorem othersPing_streams (hom : s.cfg.opcodeMap.Injective) (hm : s.mode = .headers) (hlen : p.length = 15)
    (hok : csumOkHeader s.cfg p = true) (hop : byteAt p 0 = s.cfg.opcodeMap.ping)
    (hsentinel : idAt p 3 ≠ BoardId.sentinel) (hown : idAt p 3 ≠ s.cfg.ownId) :
    ∃ t, procPacket .up .header p s = .next t ∧ t.dnTx = s.dnTx ++ p ∧ t.upTx = s.upTx := by
  have hdec := decode_ping (km := s.cfg.kindMap) (l := .up) hom hlen hop
  have hbytes := encodeHeader_of_code hlen hop
  refine ⟨forwardPing p s, ?_, toIdle_dnTx _, toIdle_upTx _⟩
  rw [procPacket_of_decode hdec, exec_pingUp_of_headers hm (by rwa [hbytes]), hbytes, pingUp, if_neg hsentinel,
    if_neg hown]

/-- 43_relay R178 for R171 and R176. -/
theorem downlinkAck_streams (hom : s.cfg.opcodeMap.Injective) (hm : s.mode = .headers ∨ s.mode = .fwdAck)
    (hlen : p.length = 15) (hok : csumOkHeader s.cfg p = true) (hop : byteAt p 0 = s.cfg.opcodeMap.ack) :
    ∃ t, procPacket .dn .header p s = .next t ∧ t.upTx = s.upTx ++ p ∧ t.dnTx = s.dnTx := by
  have hdec := decode_ack (km := s.cfg.kindMap) (l := .dn) hom hlen hop
  have hbytes := encodeHeader_of_code hlen hop
  rw [procPacket_of_decode hdec]
  rcases hm with hm | hm
  · exact ⟨_, exec_ackDn_of_headers (by rwa [hbytes]) hm, by simp [hbytes], by simp⟩
  · exact ⟨_, exec_ackDn_of_fwdAck (by rwa [hbytes]) hm, by simp [hbytes], by simp⟩

/-- 43_relay R178 for R173. -/
theorem fwdBody_streams (hok : csumOkBody s.cfg p = true) :
    (fwdBody p s).dnTx = s.dnTx ++ p ∧ (fwdBody p s).upTx = s.upTx := by
  cases hop : s.xop with
  | write => simp [fwdBody_of_write hok hop]
  | read => simp [fwdBody_of_read hok hop]

/-- 43_relay R178 for R174. -/
theorem fwdReply_streams (hok : csumOkBody s.cfg p = true) :
    (fwdReply p s).upTx = s.upTx ++ p ∧ (fwdReply p s).dnTx = s.dnTx := by
  simp [fwdReply_of_ok hok]

end Streams

/-- Settles O53, rule by rule; the Bodies are received by their bytes alone. -/
theorem relayedPacketsAreByteIdentical : Obligations.RelayedPacketsAreByteIdentical := by
  intro s p hom
  refine ⟨othersPing_streams hom, downlinkAck_streams hom, fun hm hlen hok => ?fwdBody,
    fun hm hlen hok => ?fwdReply⟩
  case fwdBody =>
    obtain ⟨act, hproc⟩ := procPacket_eq_recvBody .up hlen s
    exact ⟨fwdBody p s, hproc.trans (recvBody_of_fwdBody hm), fwdBody_streams hok⟩
  case fwdReply =>
    obtain ⟨act, hproc⟩ := procPacket_eq_recvBody .dn hlen s
    exact ⟨fwdReply p s, hproc.trans (recvBody_of_fwdReply hm), fwdReply_streams hok⟩

/-! ### Runs: an Ack passes an endpoint in Idle -/

/-- The relayed Ack of an endpoint at rest whose framer has just been emptied: it is at rest again
(43_relay R176). -/
theorem exec_ackDn_of_atRest {s : State} (h : AtRest s) {hop csum : Byte} {target : BoardId}
    (hok : csumOkHeader s.cfg (encodeHeader ⟨s.cfg.opcodeMap.ack, hop, csum, target⟩) = true)
    (rest : List Event) :
    exec (.ack .dn hop csum target) { s with st := .awaitingHeader, inputs := rest } =
      .next { s with
        inputs := rest
        upTx := s.upTx ++ encodeHeader ⟨s.cfg.opcodeMap.ack, hop, csum, target⟩ } := by
  have hresting : restingSt s.up s.dn = s.st := by rw [h.up, h.dn, h.st]; rfl
  have hrelay := downlinkAckIsRelayedInIdle { s with st := .awaitingHeader, inputs := rest } hop csum target
    (mode_of_resting (.inr rfl)) hok
  simpa only [hresting] using hrelay

/-- Settles O55: the Ack's last byte runs it, in the endpoint as it was. -/
theorem ackPassesAnIdleEndpoint : Obligations.AckPassesAnIdleEndpoint := by
  intro s p hinv hidle hs hlen hop hok
  have hrest := atRest_of_endpointInv hinv hidle hs
  obtain ⟨⟨-, hom, -⟩, -⟩ := hinv
  have hdec := decode_ack (km := s.cfg.kindMap) (l := .dn) hom hlen hop
  have hbytes := encodeHeader_of_code hlen hop
  have hrelay := exec_ackDn_of_atRest hrest (by rwa [hbytes]) []
  rw [hbytes] at hrelay
  have hrun := run_header_of_atRest hrest hdec hrelay
  rwa [List.append_nil] at hrun

end Sys2Proof.Machine

/-! # Proofs of the statements about errors (60_exceptions) -/

/-! ## Corrupt packets

The checksum is tested before anything else, so what a packet would do does not matter: every format, link and mode
comes to the same raising of CSUM, and `refresh_idle()` does nothing in an exchange. -/

namespace Sys2Proof.Machine

/-- What every corrupt packet does: CSUM is raised, and `st` says outside an exchange whether bytes are still held
(41_header_ops R127, log 20). -/
theorem refreshIdle_raise_checksum (l : Link) (p : List Byte) (s : State) :
    refreshIdle (raise (.checksum l p) s) = { s with
      st := if s.mode = .headers then restingSt s.up s.dn else s.st
      err := s.err ||| 0x02 } := by
  split
  · next hm => exact refreshIdle_of_headers (s := raise (.checksum l p) s) hm
  · next hm => exact refreshIdle_of_not_headers (s := raise (.checksum l p) s) hm

/-- In an exchange a corrupt packet only raises CSUM (42_body_ops R151; 43_relay R171, R173 to R175). -/
theorem refreshIdle_raise_of_exchange (e : EndpointError) {s : State} (hm : s.mode ≠ .headers) :
    refreshIdle (raise e s) = raise e s :=
  refreshIdle_of_not_headers (s := raise e s) hm

section Reception

variable {p : List Byte} {s : State}

/-- A corrupt uplink Header, a preempting one among them, does nothing of what its operation says
(41_header_ops R127, 43_relay R175). -/
theorem recvUpHeader_of_corrupt (act : State → State) (harmed : armed s.mode .up = some .header)
    (hbad : csumOkHeader s.cfg p = false) :
    recvUpHeader p act s = .next (refreshIdle (raise (.checksum .up p) s)) := by
  have hrefused : ¬ csumOkHeader s.cfg p = true := Bool.eq_false_iff.mp hbad
  rcases recvUpHeader_cases (act := act) rfl with ⟨-, h⟩ | ⟨hm, h⟩ | ⟨hm, -⟩
  · exact h.trans (congrArg _ (if_neg hrefused))
  · have hexchange : s.mode ≠ .headers := by rcases hm with hm | hm <;> simp [hm]
    rw [h, refreshIdle_raise_of_exchange _ hexchange, preempt, if_neg hrefused]
  · rcases hm with hm | hm <;> simp [hm, armed] at harmed

/-- A corrupt downlink Header, outside an exchange and in a relay that waits for the Ack (43_relay R171, R176). -/
theorem recvDnHeader_of_corrupt (idleAct ackAct : State → State) (harmed : armed s.mode .dn = some .header)
    (hbad : csumOkHeader s.cfg p = false) :
    recvDnHeader p idleAct ackAct s = .next (refreshIdle (raise (.checksum .dn p) s)) := by
  have hrefused : ¬ csumOkHeader s.cfg p = true := Bool.eq_false_iff.mp hbad
  rcases recvDnHeader_cases (f := idleAct) (g := ackAct) rfl with ⟨-, h⟩ | ⟨hm, h⟩ | ⟨hm, -⟩
  · exact h.trans (congrArg _ (if_neg hrefused))
  · rw [h, refreshIdle_raise_of_exchange _ (by simp [hm]), fwdAckHeader, if_neg hrefused]
  · rcases hm with hm | hm | hm <;> simp [hm, armed] at harmed

/-- A corrupt Body, at the owner and in both phases of a relay (42_body_ops R151; 43_relay R173, R174). -/
theorem recvBody_of_corrupt {l : Link} (act : State → State) (harmed : armed s.mode l = some .body)
    (hbad : csumOkBody s.cfg p = false) :
    recvBody l p act s = .next (refreshIdle (raise (.checksum l p) s)) := by
  have hrefused : ¬ csumOkBody s.cfg p = true := Bool.eq_false_iff.mp hbad
  have hexchange : s.mode ≠ .headers := fun hm => by
    cases l <;> simp [hm, armed] at harmed
  obtain ⟨t, ht⟩ : ∃ t, recvBody l p act s = .next t := by
    simpa only [Dispatched, if_pos harmed] using recvBody_dispatched l p act s
  rw [refreshIdle_raise_of_exchange _ hexchange, ht]
  rcases recvBody_cases ht with ⟨rfl, -, h⟩ | ⟨rfl, -, h⟩ | ⟨rfl, -, h⟩ | h
  · rw [h, ownerBody, if_neg hrefused]
  · rw [h, fwdBody, if_neg hrefused]
  · rw [h, fwdReply, if_neg hrefused]
  · cases h

theorem exec_eq_recvDnHeader {i : Instr} (hrx : i.rx = .dn) (hformat : i.format = .header) (s : State) :
    ∃ idleAct ackAct,
      exec i s = recvDnHeader (encode s.cfg.opcodeMap s.cfg.kindMap i) idleAct ackAct s := by
  cases i with
  | ack | ping | read | write | exec => cases hrx; exact ⟨_, _, rfl⟩
  | bodyMem | bodySens | bodyCode => cases hformat

/-- Every downlink Header, recognized or not, is received by its bytes and two actions. -/
theorem procPacket_eq_recvDnHeader (hlen : p.length = 15) (s : State) :
    ∃ idleAct ackAct, procPacket .dn .header p s = recvDnHeader p idleAct ackAct s := by
  rcases decode_header_cases s.cfg.opcodeMap s.cfg.kindMap .dn hlen with ⟨i, hdec⟩ | hdec
  · obtain ⟨hbytes, hrx, hformat⟩ := encode_of_decode hdec
    obtain ⟨idleAct, ackAct, hexec⟩ := exec_eq_recvDnHeader hrx hformat s
    exact ⟨idleAct, ackAct, by rw [procPacket_of_decode hdec, hexec, hbytes]⟩
  · exact ⟨_, _, procPacket_of_unknownOp hdec⟩

end Reception

/-- Settles O54: whatever the packet's code, it is received by its format and link, and the checksum refuses it. -/
theorem corruptPacketIsAsIfNotReceived : Obligations.CorruptPacketIsAsIfNotReceived := by
  intro s l f p harmed hlen hbad
  rw [← refreshIdle_raise_checksum l p s]
  cases f with
  | header =>
    cases l with
    | up =>
      obtain ⟨act, hproc⟩ := procPacket_eq_recvUpHeader s.cfg hlen
      exact (hproc s rfl).trans (recvUpHeader_of_corrupt act harmed hbad)
    | dn =>
      obtain ⟨idleAct, ackAct, hproc⟩ := procPacket_eq_recvDnHeader hlen s
      exact hproc.trans (recvDnHeader_of_corrupt idleAct ackAct harmed hbad)
  | body =>
    obtain ⟨act, hproc⟩ := procPacket_eq_recvBody l hlen s
    exact hproc.trans (recvBody_of_corrupt act harmed hbad)

end Sys2Proof.Machine

/-! ## The chain keeps the invariant

A move gives one endpoint at most one event, which `handle_next` and `handle_endpointInv` answer for; the BoardIDs are
parameters, which no event changes. -/

namespace Sys2Proof.Machine

/-- No event, `Reset` and power-on among them, changes a parameter (10_state R33). -/
theorem handle_cfg {e : Event} {s t : State} (h : handle e s = .next t) : t.cfg = s.cfg := by
  by_cases hr : e = .reset ∨ e = .powerOn
  · exact (handle_reset_evolves hr h).cfg
  · obtain ⟨hreset, hpower⟩ := not_or.mp hr
    exact (handle_evolves hreset hpower h).cfg

/-! ### Every move is taken -/

/-- A node of the chain takes every event, whatever counts a delivery gives it. -/
theorem runNode_taken {c : Chain} {k : Nat} {n : Node} (u v : Nat) (e : Event)
    (h : ∀ n ∈ c.nodes, EndpointInv n.ep) (hn : c.nodes[k]? = some n) :
    ∃ d, c.runNode k ⟨n.ep, u, v⟩ e = .next d := by
  obtain ⟨hloop, -⟩ := (endpointInv_iff n.ep).mp (h n (List.mem_of_getElem? hn))
  obtain ⟨t, ht⟩ := handle_next e hloop
  exact ⟨_, runNode_of_handle k u v ht⟩

theorem move_taken {c : Chain} (m : ChainMove) (h : ∀ n ∈ c.nodes, EndpointInv n.ep) :
    ∃ d, c.move m = .next d := by
  cases m with
  | hostSend p => exact ⟨_, rfl⟩
  | hostRecv =>
    simp only [Chain.move]
    split
    · exact ⟨_, rfl⟩
    · exact ⟨_, rfl⟩
  | deliverUp k | deliverDn k =>
    simp only [Chain.move]
    split
    · exact ⟨_, rfl⟩
    · next hn =>
      split
      · exact ⟨_, rfl⟩
      · exact runNode_taken _ _ _ h hn
  | tick k | reset k | powerOn k =>
    simp only [Chain.move]
    split
    · exact ⟨_, rfl⟩
    · next hn => exact runNode_taken _ _ _ h hn

/-! ### What the node that moved keeps -/

section NodeMoves

variable {c : Chain} {k : Nat} {n n' : Node}

theorem NodeMoves.endpointInv (hmoves : NodeMoves c k n n') (h : ∀ x ∈ c.nodes, EndpointInv x.ep) :
    ∀ x ∈ c.nodes.set k n', EndpointInv x.ep := by
  intro x hx
  rcases List.mem_or_eq_of_mem_set hx with hold | rfl
  · exact h x hold
  · obtain ⟨e, he⟩ := hmoves.handles
    exact handle_endpointInv (h n (List.mem_of_getElem? hmoves.node)) he

theorem NodeMoves.ownIds_eq (hmoves : NodeMoves c k n n') :
    (c.nodes.set k n').map (fun x => x.ep.cfg.ownId) = c.nodes.map fun x => x.ep.cfg.ownId := by
  obtain ⟨e, he⟩ := hmoves.handles
  obtain ⟨hlt, hget⟩ := List.getElem?_eq_some_iff.mp hmoves.node
  have hsame : n'.ep.cfg.ownId = ((c.nodes.map fun x => x.ep.cfg.ownId)[k]'(by simpa using hlt)) := by
    rw [List.getElem_map, hget, handle_cfg he]
  rw [List.map_set, hsame, List.set_getElem_self]

end NodeMoves

theorem move_endpointInv {c d : Chain} {m : ChainMove} (h : ∀ n ∈ c.nodes, EndpointInv n.ep)
    (hd : c.move m = .next d) : ∀ n ∈ d.nodes, EndpointInv n.ep := by
  rcases move_cases hd with rfl | ⟨p, rfl⟩ | ⟨-, rfl⟩ | ⟨k, n, n', hmoves, rfl⟩
  · exact h
  · exact h
  · exact h
  · exact hmoves.endpointInv h

/-- A move keeps the BoardIDs, in their order (10_state R33). -/
theorem move_ownIds_eq {c d : Chain} {m : ChainMove} (hd : c.move m = .next d) :
    d.nodes.map (fun n => n.ep.cfg.ownId) = c.nodes.map fun n => n.ep.cfg.ownId := by
  rcases move_cases hd with rfl | ⟨p, rfl⟩ | ⟨-, rfl⟩ | ⟨k, n, n', hmoves, rfl⟩
  · rfl
  · rfl
  · rfl
  · exact hmoves.ownIds_eq

/-- Settles O60: no event stops an endpoint that meets the invariant, every event keeps it, and none changes a
BoardID. -/
theorem chainMovesKeepTheInvariant : Obligations.ChainMovesKeepTheInvariant := by
  intro c m hinv hids
  obtain ⟨d, hd⟩ := move_taken m hinv
  have hids' : d.DistinctIds := by
    unfold Chain.DistinctIds
    rwa [move_ownIds_eq hd]
  exact ⟨d, hd, move_endpointInv hinv hd, hids'⟩

end Sys2Proof.Machine

/-! # Proofs of the statements about `Reset` and power-on (70_reset) -/

namespace Sys2Proof.Machine

/-- A step hands the oldest pending event to the event function (10_state R30). -/
theorem step_of_inputs {s : State} {e : Event} {rest : List Event} (h : s.inputs = e :: rest) :
    step s = handle e { s with inputs := rest } := by
  simp only [step, h]

/-- What `Reset` leaves of the state it interrupts is `cfg`, `MEM`, the streams and the pending events; all else
gets its value of 10_state R37. -/
theorem resetEvent_eq (s : State) :
    resetEvent s = { s with
      st := .idle, fph := .fwdAck, xop := .read, xtgt := BoardId.sentinel
      up := Framer.reset, dn := Framer.reset
      settle := 0, pendDn := none, waitT := 0, err := 0x00 } := rfl

theorem step_reset {s : State} {rest : List Event} (h : s.inputs = .reset :: rest) :
    step s = .next (resetEvent { s with inputs := rest }) := step_of_inputs h

theorem step_powerOn {s : State} {rest : List Event} (h : s.inputs = .powerOn :: rest) :
    step s = .next (powerOnEvent { s with inputs := rest }) := step_of_inputs h

/-- Settles O11: the step is `resetEvent` of the state whose pending `Reset` is consumed. -/
theorem resetStep : Obligations.ResetStep := by
  intro s rest h
  rw [step_reset h, resetEvent_eq]
  rfl

/-- Settles O12: once its event is consumed, each of the two steps starts from the same state, and `powerOnEvent`
is `resetEvent` with `MEM` set. -/
theorem powerOnStep : Obligations.PowerOnStep := by
  intro s rest h
  exact ⟨_, step_reset (s := { s with inputs := .reset :: rest }) rfl, step_powerOn h⟩

end Sys2Proof.Machine
